-- ==== Sys2Proof/Word.lean ====
section
/-! DEFINITION. The word types of the SBFC (00_scope.md rule R11): a byte is 8 unsigned bits, a word 32. No value
in the SBFC is signed. -/

namespace Sys2Proof

/-- A byte: an 8-bit unsigned value 0..255 (rule R11). -/
abbrev Byte := BitVec 8

/-- A word: a 32-bit unsigned value (rule R11); the width of every host register and of the command word. -/
abbrev Word := BitVec 32

/-- A transceiver register address, 0x00..0x7F (rule R70 space 2, rule R147): seven bits. -/
abbrev RegAddr := BitVec 7

end Sys2Proof
end

