-- ==== Sys2Proof/Config.lean ====
section
/-! DEFINITION. The implementation parameters of 00_scope.md rule R8, the constraint of rule R9 on them, the
configuration of the modelled instance as ONE opaque constant, and the two opaque streams of environment draws
(rule R21). Nothing here has a value that a proof can see, except the constants the source itself fixes. -/

namespace Sys2Proof

namespace Const

/-- P_READ_BIT: the high bit of a header byte signals a read. -/
def readBit : Byte := 0x80
/-- P_SYNC. -/
def sync : Byte := 0x55
/-- P_HDR. -/
def hdr : Byte := 0x01
/-- P_TRL. -/
def trl : Byte := 0xAA
/-- P_TERM. -/
def term : Byte := 0xFF
/-- P_CMD_OFF. -/
def cmdOff : Byte := 0x01
/-- P_CMD_DIM50. -/
def cmdDim50 : Byte := 0x02
/-- P_CMD_DIM100. -/
def cmdDim100 : Byte := 0x03
/-- P_CMD_PAIR. -/
def cmdPair : Byte := 0xFF
/-- P_MAX_FRAME. -/
def maxFrame : Nat := 8
/-- P_MIN_FRAME_EXCL: a length at most this is no frame. -/
def minFrameExcl : Nat := 1
/-- P_TX_DEFAULT_REPS: the assembler's default of `transmit`. -/
def txDefaultReps : Nat := 10
/-- P_HOST_DEFAULT_REPS: the assembler's default of `turnoff`, `turnon50`, `turnon100`. -/
def hostDefaultReps : Nat := 50
/-- P_DUMMY_BYTE: the byte sent while a register value is read (decision D11). -/
def dummyByte : Byte := 0x00

end Const

/-- P_BIT_ORDER: the order of the bits of one byte on the serial line. -/
inductive BitOrder where
  | msbFirst
  | lsbFirst
deriving DecidableEq, Repr

/-- The parameters of rule R8 whose value the source does not fix, or fixes only as a default. Durations are in
microseconds (rule R16). The 7-bit addresses of rule R9 are 7-bit by their type. -/
structure Params where
  /-- P_LEARN_MAX_ATTEMPTS, 1..255. -/
  learnMaxAttempts : Nat := 10
  /-- P_T_BYTE. -/
  tByte : Nat := 1
  /-- P_T_TX. -/
  tTx : Nat := 255
  /-- P_T_POST. -/
  tPost : Nat
  /-- P_T_STROBE. -/
  tStrobe : Nat
  /-- P_T_RX_WAIT. -/
  tRxWait : Nat
  /-- P_T_RESET. -/
  tReset : Nat
  /-- P_FIFO_ADDR. -/
  fifoAddr : RegAddr
  /-- P_RXLEN_ADDR. -/
  rxlenAddr : RegAddr
  /-- P_BURST_MARKER. -/
  burstMarker : Byte
  /-- P_TX_LEN_BYTE. -/
  txLenByte : Byte
  /-- P_STB_RX. -/
  stbRx : Byte
  /-- P_STB_TX. -/
  stbTx : Byte
  /-- P_STB_IDLE. -/
  stbIdle : Byte
  /-- P_STB_FRX. -/
  stbFrx : Byte
  /-- P_STB_FTX. -/
  stbFtx : Byte
  /-- P_STB_RESET. -/
  stbReset : Byte
  /-- P_CONFIG_TABLE, in the order INIT writes it. -/
  configTable : List (RegAddr × Byte)
  /-- P_READY_TIMEOUT: `none` is NONE (the endless wait), `some N` a bound of N samples. -/
  readyTimeout : Option Nat := none
  /-- P_SEL_ACTIVE_LOW. -/
  selActiveLow : Bool
  /-- P_BIT_ORDER. -/
  bitOrder : BitOrder
  /-- P_HOST_BASE. -/
  hostBase : Nat
deriving DecidableEq, Repr

/-- Rule R9 and the ranges of rule R8's table: the parameter sets that are configurations of the SBFC. A set that
breaks one is refused: no `Config` can be made of it. -/
def Params.legal (p : Params) : Bool :=
  decide (1 ≤ p.learnMaxAttempts) && decide (p.learnMaxAttempts ≤ 255) && decide (1 ≤ p.tByte) &&
    decide (255 ≤ p.tTx) && decide (p.configTable.length ≤ 255) && decide (p.readyTimeout ≠ some 0)

/-- A legal parameter set, written only to show that there is one; nothing else uses it. -/
def Params.someLegal : Params where
  tPost := 0
  tStrobe := 0
  tRxWait := 0
  tReset := 0
  fifoAddr := 0
  rxlenAddr := 0
  burstMarker := 0
  txLenByte := 0
  stbRx := 0
  stbTx := 0
  stbIdle := 0
  stbFrx := 0
  stbFtx := 0
  stbReset := 0
  configTable := []
  selActiveLow := true
  bitOrder := .msbFirst
  hostBase := 0

/-- A configuration of the SBFC: parameters with the proof that they are legal (rule R9). -/
structure Config where
  params : Params := Params.someLegal
  isLegal : params.legal = true := by decide
deriving DecidableEq, Repr, Inhabited

/-- A level of the select line (rule R55) or of the bus-readiness line (rule R57). -/
inductive Level where
  | asserted
  | deasserted
deriving DecidableEq, Repr, Inhabited

/-- The configuration of the modelled instance (rules R8, R303): fixed for its life, and no proof can see which
legal one it is. -/
opaque Config.sbfc : Config

/-- The parameters of the modelled instance. -/
def sbfcParams : Params := Config.sbfc.params

/-- The n-th sample of the bus-readiness line that no listed draw supplies (rule R21 a): a free value. -/
opaque Config.brlDraw : Nat → Level

/-- The n-th received byte that no listed draw supplies (rule R21 b): a free value. -/
opaque Config.rxDraw : Nat → Byte

/-- The parameters of the modelled instance meet rule R9. -/
theorem sbfcParams_legal : sbfcParams.legal = true := Config.sbfc.isLegal

end Sys2Proof
end

