-- ==== Sys2Proof/Syntax.lean ====
section
/-! DEFINITION. The eight host commands of 30_encoding.md rule R102 (one constructor per row of
spec/opcode_table.json), the command selector of rule R103, and the lines an assembler accepts (rules R107 and
R250), whose operands are plain numbers that may be out of range. -/

namespace Sys2Proof

/-- CommandCode, the closed enumeration that TX's selector `s` names (rule R103). -/
inductive CommandCode where
  | off
  | dim50
  | dim100
  | pair
deriving DecidableEq, Repr

/-- A legal host command (rule R102). Operand types have exactly the widths of the encoding's fields, so every
term of this type is a legal command; a word that is none of these is ILLEGAL (rule R104). -/
inductive Instr where
  /-- NOP (rule R248). -/
  | nop
  /-- RDREG, transceiver address `a` (rule R141). -/
  | rdreg (a : RegAddr)
  /-- WRREG, transceiver address `a`, value `v` (rule R146). -/
  | wrreg (a : RegAddr) (v : Byte)
  /-- STROBE, strobe code `c`, settle time `t` in microseconds (rule R151). -/
  | strobe (c : Byte) (t : BitVec 16)
  /-- TX, command selector `k`, repetition count `n` (rule R210). -/
  | tx (k : CommandCode) (n : Byte)
  /-- LEARN (rule R170). -/
  | learn
  /-- SETADDR, byteA `a`, byteB `b` (rule R240). -/
  | setaddr (a b : Byte)
  /-- INIT (rule R244). -/
  | init
deriving DecidableEq, Repr

/-- One line of assembler input: the eight mnemonics of rule R107 and the pseudo-instructions of rule R250, with
numbers as they were written. -/
inductive AsmLine where
  | nop
  | rdreg (a : Nat)
  | wrreg (a v : Nat)
  | strobe (c t : Nat)
  | tx (k : CommandCode) (n : Nat)
  | learn
  | setaddr (a b : Nat)
  | init
  | turnoff (n : Option Nat)
  | turnon50 (n : Option Nat)
  | turnon100 (n : Option Nat)
  | transmit (k : CommandCode) (n : Option Nat)
  | replay (k : CommandCode)
  | srx
  | stx
  | sidle
  | sfrx
  | sftx
  | sres
  | rdfifo
  | wrfifo (v : Nat)
deriving DecidableEq, Repr

/-- A host access to the SBFC window (rules R12, R70): a byte offset from P_HOST_BASE, a width in bytes, and for a
write the value. The type admits the widths and offsets that rule R74 refuses. -/
inductive HostAccess where
  | read (off width : Nat)
  | write (off width : Nat) (w : Word)
deriving DecidableEq, Repr

end Sys2Proof
end

