-- ==== Sys2Proof/Machine/State.lean ====
section
/-! DEFINITION. The state of the SBFC (10_state.md rules R30 to R60) as plain data, with the bus trace the spec
observes it by (00_scope.md rule R17) and, kept apart under `env`, what the environment supplies and receives: the
turns of the two agents, the draws, the reset input and the words host reads returned (rules R20, R21, R85). -/

namespace Sys2Proof.Machine

/-- A completion code, STATUS.DONE (rules R37, R260). Code 7 is never written and has no constructor. -/
inductive Done where
  | none
  | ok
  | rejected
  | illegal
  | found
  | exhausted
  | notResponding
deriving DecidableEq, Repr

/-- STATUS.LSTATE, the state of the address-learning machine (rules R37, R40). -/
inductive LState where
  | idle
  | listening
  | found
  | exhausted
deriving DecidableEq, Repr

/-- FixtureAddress, the contents of ADDR (rule R46): `a` is byteA, `b` is byteB. -/
structure FixtureAddress where
  a : Byte
  b : Byte
deriving DecidableEq, Repr

/-- A bus event (rule R17). -/
inductive Event where
  /-- WAIT(n): a readiness wait that ended at its n-th sample. -/
  | wait (n : Nat)
  /-- SEL. -/
  | sel
  /-- DESEL. -/
  | desel
  /-- X(o, i): byte `o` sent, byte `i` received. -/
  | x (o i : Byte)
  /-- GAP(t). -/
  | gap (t : Nat)
  /-- DLY(t). -/
  | dly (t : Nat)
deriving DecidableEq, Repr

/-- Where a bus transaction stands (rules R131 to R136): before `WCNT <- 0`, before the next readiness sample, before
`Select()`, before the header exchange, before the gap or the exchange of payload byte `k`, before `Deselect()`,
before the final delay. -/
inductive BusPos where
  | clear
  | sample
  | select
  | header
  | gap (k : Nat)
  | payload (k : Nat)
  | deselect
  | delay
deriving DecidableEq, Repr

/-- Which transaction line of a command's pseudocode is running. -/
inductive Txn where
  /-- The only transaction of RDREG, WRREG or STROBE (rules R141, R146, R151). -/
  | cmd
  /-- TX step 1, return to idle (rule R210). -/
  | txIdle
  /-- TX step 1, flush transmit buffer. -/
  | txFlush
  /-- TX step 2, the burst write. -/
  | txBurst
  /-- TX step 3, enable transmit. -/
  | txFire
  /-- LEARN step 1, enter receive (rules R173, R178). -/
  | learnRx
  /-- LEARN step 2, read the reported length. -/
  | learnLen
  /-- LEARN step 4, read frame byte `j` (rule R176). -/
  | learnByte
  /-- LEARN step 6, return to idle (rule R179). -/
  | learnIdle
  /-- LEARN step 6, flush receive buffer. -/
  | learnFlush
  /-- INIT, the reset strobe (rule R245). -/
  | initReset
  /-- INIT, configuration write `ci` (rule R246). -/
  | initWrite
deriving DecidableEq, Repr

/-- `pos` of rule R33: the pseudocode line, or the micro-operation of a transaction line, that the next SEQ step
performs (rule R79). -/
inductive Pos where
  /-- `if not legal(OPL) then finish(ILLEGAL)`, the first line of every command. -/
  | start
  /-- The assignment of operands: `a <- OPL[6:0]` (RDREG, rule R141), `a <- OPL[7:0]; b <- OPL[15:8]` (SETADDR, rule
  R240). -/
  | operands
  /-- The precondition line of TX, LEARN and SETADDR (rule R270). -/
  | precondition
  /-- The first register write: REPS_DONE <- 0 (TX), LSTATE and ATTEMPTS (LEARN, rule R171), ADDR (SETADDR). -/
  | setup
  /-- LEARN: `ATTEMPTS <- att; FB <- 0` (rule R172). -/
  | attempt
  /-- A micro-operation of a transaction. -/
  | bus (t : Txn) (b : BusPos)
  /-- LEARN: `RXLEN <- len` (rule R173). -/
  | recordLen
  /-- LEARN: `m <- NOFRAME` (rule R178). -/
  | clearMatch
  /-- LEARN: `if 2 <= len <= 8`. -/
  | checkLen
  /-- LEARN: `FB[j] <- v` (rule R176). -/
  | storeByte
  /-- LEARN: the parse and the writes of a match (rules R178, R180). -/
  | parse
  /-- LEARN: `m <- FOUND` (rule R178). -/
  | setMatch
  /-- LEARN: `m <- Attempt()`, the assignment of what the attempt returned (rules R170, R178). -/
  | attemptResult
  /-- LEARN: `if m = FOUND then finish(FOUND)`. -/
  | checkMatch
  /-- LEARN: `LSTATE <- EXHAUSTED` (rule R181). -/
  | exhausted
  /-- INIT: `(a, v) <- P_CONFIG_TABLE[ci]` (rule R244). -/
  | tableEntry
  /-- TX: `REPS_DONE <- rep` (rule R215). -/
  | countRep
  /-- The command's last line, its `finish`. -/
  | finish
deriving DecidableEq, Repr

/-- `locals` of rule R33: `att`, `rep`, `j`, `len`, `ci`, and the two further variables the pseudocode names, `v`
(the value the last register read returned) and `m` (true for FOUND). -/
structure Locals where
  att : Nat := 0
  rep : Nat := 0
  j : Nat := 0
  len : Byte := 0
  ci : Nat := 0
  v : Byte := 0
  m : Bool := false
deriving DecidableEq, Repr

/-- SEQ (rule R33): `SEQ_IDLE` or `SEQ_RUN(op, pos, locals)`. -/
inductive Seq where
  | idle
  | run (op : BitVec 4) (pos : Pos) (l : Locals)
deriving DecidableEq, Repr

/-- One turn of the interleaving of the agents (rules R20, R85), or a change of the reset input (rule R290). -/
inductive Turn where
  /-- The SEQ makes its next step. -/
  | seq
  /-- The host makes one access. -/
  | host (a : HostAccess)
  /-- RST becomes asserted (`true`) or released (`false`). -/
  | rst (on : Bool)
deriving DecidableEq, Repr

/-- What lies outside the SBFC and meets it: not state of the SBFC. -/
structure Env where
  /-- The turns still to come, the first one next. When none is left the host is done and the SEQ runs alone. -/
  turns : List Turn := []
  /-- The level of RST: true while it is asserted. -/
  rst : Bool := false
  /-- The bus-readiness samples still to come (rule R21 a). -/
  brl : List Level := []
  /-- How many samples were taken from `Config.brlDraw` because `brl` was empty. -/
  brlCount : Nat := 0
  /-- The received bytes still to come (rule R21 b). -/
  rx : List Byte := []
  /-- How many received bytes were taken from `Config.rxDraw` because `rx` was empty. -/
  rxCount : Nat := 0
  /-- The words that host reads returned, the latest last. -/
  reads : List Word := []
deriving DecidableEq, Repr

/-- The state (rule R30). CMD itself stores nothing but OPL (rule R36); STATUS.ADDR_VALID is computed from `addr`
(rule R41); RXBUF0 and RXBUF1 are views of `fb` (rule R50); the reserved bits of every register read 0. -/
structure State where
  /-- STATUS.BUSY (rule R38). -/
  busy : Bool
  /-- STATUS.DONE (rule R39). -/
  done : Done
  /-- STATUS.LSTATE (rule R40). -/
  lstate : LState
  /-- STATUS.OVERRUN (rule R42). -/
  overrun : Bool
  /-- STATUS.ATTEMPTS (rule R43). -/
  attempts : Byte
  /-- STATUS.REPS_DONE (rule R44). -/
  repsDone : Byte
  /-- RESULT.RDATA (rule R45). -/
  rdata : Byte
  /-- ADDR (rule R46). -/
  addr : FixtureAddress
  /-- RXLEN bits 7:0 (rule R51). -/
  rxlen : Byte
  /-- FB, the frame buffer (rule R53). -/
  fb : Vector Byte 8
  /-- SEQ (rule R33). -/
  seq : Seq
  /-- OPL (rule R34). -/
  opl : Word
  /-- SEL (rule R55). -/
  sel : Level
  /-- WCNT (rule R56). -/
  wcnt : Nat
  /-- The bus trace T (rule R17), the latest event last: an observation, not state of the SBFC. -/
  trace : List Event
  /-- The environment: not state of the SBFC. -/
  env : Env
deriving DecidableEq, Repr

/-- Why a step stops with a fault. -/
inductive Fault where
  /-- Raised by a meaning asked for the next SEQ step of its command in a state where SEQ stands at no position of
  that command, and by `step` where OPL is illegal past the first line. Safe: the spec gives such a state no
  step, and no state that meets `State.Inv` (so none that a run from reset reaches) raises it. -/
  | noSuchPosition
deriving DecidableEq, Repr

/-- Why a step is refused. -/
inductive Refusal where
  /-- Raised by an arm of `exec` for a command that has no meaning yet. Safe. -/
  | notModelled (mnemonic : String)
  /-- Raised by `step` for a host access that is not 32 bits wide or not at a multiple of 4 (rule R74, entry I3 of
  93_implementation_defined.md, which asks a model to refuse it). Safe. -/
  | hostAccessShape
  /-- Raised by `step` for a host access outside the 32-byte window: it is no access to the SBFC (rule R70). Safe. -/
  | outsideWindow
deriving DecidableEq, Repr

/-- What one step answers. -/
abbrev Out := Host.Outcome State Fault Refusal

/-- Every piece of state at its reset value (rule R60), with the trace and the environment handed on. -/
def State.resetWith (trace : List Event) (env : Env) : State where
  busy := false
  done := .none
  lstate := .idle
  overrun := false
  attempts := 0
  repsDone := 0
  rdata := 0
  addr := { a := 0, b := 0 }
  rxlen := 0
  fb := Vector.replicate 8 0
  seq := .idle
  opl := 0
  sel := .deasserted
  wcnt := 0
  trace := trace
  env := env

/-- The machine right after reset (rules R60, R290): nothing on the bus yet, RST released, no turn and no draw
listed. -/
def State.reset : State := State.resetWith [] {}

end Sys2Proof.Machine
end

