-- ==== Sys2Proof/Machine/Flags.lean ====
section
/-! DEFINITION. STATUS as the host reads it (10_state.md rules R37, R41, R58): the SBFC's only flags are its
fields. -/

namespace Sys2Proof.Machine

/-- The 3-bit number of a completion code (rules R37, R260). -/
def doneCode : Done → BitVec 3
  | .none => 0
  | .ok => 1
  | .rejected => 2
  | .illegal => 3
  | .found => 4
  | .exhausted => 5
  | .notResponding => 6

/-- The 2-bit number of a learning state (rule R37). -/
def lstateCode : LState → BitVec 2
  | .idle => 0
  | .listening => 1
  | .found => 2
  | .exhausted => 3

/-- The pair is not the sentinel `(0,0)`. -/
def isAddress (p : FixtureAddress) : Bool := decide (¬ (p.a = 0 ∧ p.b = 0))

/-- STATUS.ADDR_VALID: 1 iff ADDR holds a non-sentinel pair (rule R41). -/
def State.addrValid (s : State) : Bool := isAddress s.addr

/-- The STATUS word (rule R37), bits 31:24 reserved and read as 0. -/
def State.statusWord (s : State) : Word :=
  (0 : BitVec 8) ++ s.repsDone ++ s.attempts ++ BitVec.ofBool s.overrun ++ BitVec.ofBool s.addrValid ++
    lstateCode s.lstate ++ doneCode s.done ++ BitVec.ofBool s.busy

/-- The RESULT word (rule R45). -/
def State.resultWord (s : State) : Word := s.rdata.setWidth 32

/-- The ADDR word (rules R46, R78): byteA in bits 7:0, byteB in bits 15:8. -/
def State.addrWord (s : State) : Word := (0 : BitVec 16) ++ s.addr.b ++ s.addr.a

/-- The RXBUF0 word (rules R50, R78). -/
def State.rxbuf0Word (s : State) : Word := s.fb[3] ++ s.fb[2] ++ s.fb[1] ++ s.fb[0]

/-- The RXBUF1 word (rules R50, R78). -/
def State.rxbuf1Word (s : State) : Word := s.fb[7] ++ s.fb[6] ++ s.fb[5] ++ s.fb[4]

/-- The RXLEN word (rule R51). -/
def State.rxlenWord (s : State) : Word := s.rxlen.setWidth 32

end Sys2Proof.Machine
end

