-- ==== Sys2Proof/Machine/Operands.lean ====
section
/-! DEFINITION. The fields of the command word (30_encoding.md rule R101) and every byte the SBFC makes from an
operand: the header bytes (rules R109 to R112), the wire byte of a command (rule R103) and the transmit frame
(rules R113, R211). -/

namespace Sys2Proof.Machine

/-- OP, bits 31:28 (rule R101). -/
def fieldOp (w : Word) : BitVec 4 := w.extractLsb' 28 4
/-- RSV, bits 27:24. -/
def fieldRsv (w : Word) : BitVec 4 := w.extractLsb' 24 4
/-- F2, operand byte 2, bits 23:16. -/
def fieldF2 (w : Word) : Byte := w.extractLsb' 16 8
/-- F1, operand byte 1, bits 15:8. -/
def fieldF1 (w : Word) : Byte := w.extractLsb' 8 8
/-- F0, operand byte 0, bits 7:0. -/
def fieldF0 (w : Word) : Byte := w.extractLsb' 0 8
/-- The transceiver address of RDREG and WRREG, F0 bits 6:0 (rule R102). -/
def fieldAddr (w : Word) : RegAddr := w.extractLsb' 0 7
/-- F0 bit 7, which RDREG and WRREG want 0. -/
def fieldAddrTop (w : Word) : BitVec 1 := w.extractLsb' 7 1
/-- The settle time of STROBE, the 16-bit value `{F2, F1}` (rule R101). -/
def fieldSettle (w : Word) : BitVec 16 := w.extractLsb' 8 16
/-- The command selector of TX, F0 bits 1:0. -/
def fieldSel (w : Word) : BitVec 2 := w.extractLsb' 0 2
/-- F0 bits 7:2, which TX wants 0. -/
def fieldSelTop (w : Word) : BitVec 6 := w.extractLsb' 2 6

/-- The opcodes of rule R102. -/
def opcode : Instr → BitVec 4
  | .nop => 0x0
  | .rdreg _ => 0x1
  | .wrreg _ _ => 0x2
  | .strobe _ _ => 0x3
  | .tx _ _ => 0x4
  | .learn => 0x5
  | .setaddr _ _ => 0x6
  | .init => 0x7

/-- The selector number of a command code (rule R103). -/
def selOf : CommandCode → BitVec 2
  | .off => 0
  | .dim50 => 1
  | .dim100 => 2
  | .pair => 3

/-- The command code a selector number names (rule R103). -/
def codeOf (s : BitVec 2) : CommandCode :=
  if s = 0 then .off else if s = 1 then .dim50 else if s = 2 then .dim100 else .pair

/-- W(s), the wire byte of a command (rules R103, R211). -/
def wireByte : CommandCode → Byte
  | .off => Const.cmdOff
  | .dim50 => Const.cmdDim50
  | .dim100 => Const.cmdDim100
  | .pair => Const.cmdPair

/-- Header of a register read: the address with the read bit (rule R109). -/
def readHeader (a : RegAddr) : Byte := a.setWidth 8 ||| Const.readBit

/-- Header of a register write: the address, bit 7 clear (rule R110). -/
def writeHeader (a : RegAddr) : Byte := a.setWidth 8

/-- Payload(ADDR, s): the eight payload bytes of TX's burst write (rule R211). -/
def txPayload (p : Params) (addrA addrB : Byte) (k : CommandCode) : List Byte :=
  [p.txLenByte, Const.sync, Const.hdr, addrA, addrB, wireByte k, Const.trl, Const.term]

/-- One bus transaction (rule R136): its header byte, its payload bytes, whether the byte received with the payload
is the transaction's value, and its final delay. -/
structure Xfer where
  header : Byte
  payload : List Byte
  reads : Bool
  settle : Nat
deriving DecidableEq, Repr

/-- RdReg(a) (rule R140). -/
def readXfer (p : Params) (a : RegAddr) : Xfer :=
  { header := readHeader a, payload := [Const.dummyByte], reads := true, settle := p.tPost }

/-- WrReg(a, v) (rule R145). -/
def writeXfer (p : Params) (a : RegAddr) (v : Byte) : Xfer :=
  { header := writeHeader a, payload := [v], reads := false, settle := p.tPost }

/-- Strobe(c, t) (rules R150, R111). -/
def strobeXfer (c : Byte) (t : Nat) : Xfer :=
  { header := c, payload := [], reads := false, settle := t }

/-- BurstWr(h, bytes) (rule R155), with h = P_BURST_MARKER (rule R112). -/
def burstXfer (p : Params) (bytes : List Byte) : Xfer :=
  { header := p.burstMarker, payload := bytes, reads := false, settle := p.tPost }

end Sys2Proof.Machine
end

