-- ==== Sys2Proof/Machine/Ops.lean ====
section
/-! DEFINITION. The shared operations: the draws (00_scope.md rule R21), the trace (rule R17), the end of an
operation (rules R14, R266, R267: the SBFC has no exceptions, rule R261, and these are what stands in their place),
the micro-operations and the one transaction shape of 40_bus_primitives.md (rules R131 to R136), and the receive-frame
parser (41_receive_learn.md rule R177). -/

namespace Sys2Proof.Machine

/-- The next bus-readiness sample: the next listed draw, else a free value (rule R21 a). -/
def State.nextBrl (s : State) : Level :=
  match s.env.brl with
  | [] => Config.brlDraw s.env.brlCount
  | b :: _ => b

/-- The state after that sample is taken from the environment. -/
def State.popBrl (s : State) : State :=
  match s.env.brl with
  | [] => { s with env := { s.env with brlCount := s.env.brlCount + 1 } }
  | _ :: rest => { s with env := { s.env with brl := rest } }

/-- The byte the next exchange receives: the next listed draw, else a free value (rule R21 b). -/
def State.nextRx (s : State) : Byte :=
  match s.env.rx with
  | [] => Config.rxDraw s.env.rxCount
  | b :: _ => b

/-- The state after that byte is taken from the environment. -/
def State.popRx (s : State) : State :=
  match s.env.rx with
  | [] => { s with env := { s.env with rxCount := s.env.rxCount + 1 } }
  | _ :: rest => { s with env := { s.env with rx := rest } }

/-- Append one event to the trace T (rule R17). -/
def State.emit (e : Event) (s : State) : State := { s with trace := s.trace ++ [e] }

/-- SEQ moves to position `pos` of the command with opcode `op` (rule R33). -/
def State.goto (op : BitVec 4) (pos : Pos) (l : Locals) (s : State) : State := { s with seq := .run op pos l }

/-- `finish(code)` (rule R14), one step: DONE is written, BUSY falls, SEQ is idle. -/
def State.finish (c : Done) (s : State) : State := { s with done := c, busy := false, seq := .idle }

/-- `abort(NOT_RESPONDING)` of every command but LEARN (rule R266): every earlier write is kept. -/
def State.abort (s : State) : State := s.finish .notResponding

/-- `abort(NOT_RESPONDING)` of LEARN (rule R267): LSTATE stays FOUND where a match was committed before the timeout
(rule R180 writes FOUND with the address) and becomes IDLE otherwise. -/
def State.abortLearn (s : State) : State :=
  { s with lstate := if s.lstate = LState.found then LState.found else .idle }.finish .notResponding

/-- The meaning of a command at the positions of its own pseudocode: `k` where SEQ runs opcode `op`. Elsewhere the
command has no SEQ step. -/
def atOp (op : BitVec 4) (s : State) (k : Pos → Locals → Out) : Out :=
  match s.seq with
  | .idle => .fault .noSuchPosition
  | .run o pos l => if o = op then k pos l else .fault .noSuchPosition

/-- One readiness sample of `WaitReady()` (rule R131): a deasserted sample ends the wait and is tested first; the
N-th asserted one aborts where P_READY_TIMEOUT = N; otherwise the wait goes on, for ever if need be (rule R265). -/
def State.sampleBrl (p : Params) (op : BitVec 4) (t : Txn) (l : Locals) (stop : State → State) (s : State) : State :=
  let s' := { s.popBrl with wcnt := s.wcnt + 1 }
  if s.nextBrl = .deasserted then (s'.emit (.wait (s.wcnt + 1))).goto op (.bus t .select) l
  else if p.readyTimeout = some (s.wcnt + 1) then stop s'
  else s'

/-- `Xchg(o)` (rule R133): `o` is sent, the next draw is received. -/
def State.xchg (o : Byte) (s : State) : State := s.popRx.emit (.x o s.nextRx)

/-- One SEQ step of the transaction `x`, run as line `t` of the command with opcode `op` and locals `l` (rule R136):
`WaitReady(); Select(); Xchg(header); (Gap; Xchg(payload))*; Deselect(); Delay(settle)`. After the delay SEQ goes to
`after`; `stop` is the abort of a wait that times out. Only a reading transaction keeps a received byte, the one that
comes with its payload (rules R136, R140). -/
def busStep (p : Params) (x : Xfer) (op : BitVec 4) (t : Txn) (l : Locals) (after : Seq) (stop : State → State)
    (b : BusPos) (s : State) : Out :=
  match b with
  | .clear => .next ({ s with wcnt := 0 }.goto op (.bus t .sample) l)
  | .sample => .next (s.sampleBrl p op t l stop)
  | .select => .next (({ s with sel := .asserted }.emit .sel).goto op (.bus t .header) l)
  | .header =>
    .next ((s.xchg x.header).goto op (.bus t (if x.payload = [] then .deselect else .gap 0)) l)
  | .gap k => .next ((s.emit (.gap p.tByte)).goto op (.bus t (.payload k)) l)
  | .payload k =>
    match x.payload[k]? with
    | none => .fault .noSuchPosition
    | some o =>
      .next ((s.xchg o).goto op (.bus t (if k + 1 < x.payload.length then .gap (k + 1) else .deselect))
        (if x.reads then { l with v := s.nextRx } else l))
  | .deselect => .next (({ s with sel := .deasserted }.emit .desel).goto op (.bus t .delay) l)
  | .delay => .next { s.emit (.dly x.settle) with seq := after }

/-- The candidate at the front of a frame's rest (rule R177): sync, header and trailer marks match, the byte at k+4 is
not compared, and the pair is not the sentinel. -/
def matchAt : List Byte → Option FixtureAddress
  | f0 :: f1 :: f2 :: f3 :: _ :: f5 :: _ =>
    if f0 = Const.sync ∧ f1 = Const.hdr ∧ f5 = Const.trl ∧ ¬ (f2 = 0 ∧ f3 = 0) then some { a := f2, b := f3 } else none
  | _ => none

/-- Parse(f, len) (rule R177) for the frame of the given bytes: the pair of the first offset whose candidate matches;
a candidate never reaches past the frame. -/
def parse : List Byte → Option FixtureAddress
  | [] => none
  | f0 :: rest =>
    match matchAt (f0 :: rest) with
    | some r => some r
    | none => parse rest

/-- The received frame of `len` bytes in FB: FB[0..len-1] (rule R53). -/
def State.frame (s : State) (len : Nat) : List Byte := s.fb.toList.take len

end Sys2Proof.Machine
end

