-- ==== Sys2Proof/Machine/Address.lean ====
section
/-! DEFINITION. SETADDR, INIT and NOP (43_address_init.md rules R240 to R248). A meaning is the command's next SEQ step
(20_memory.md rule R79). -/

namespace Sys2Proof.Machine

/-- SETADDR (rules R240 to R242): the sentinel is rejected, any other pair is written in one step. -/
def execSetaddr (a b : Byte) (s : State) : Out :=
  atOp 0x6 s fun pos l =>
    match pos with
    | .start => .next (s.goto 0x6 .operands l)
    | .operands => .next (s.goto 0x6 .precondition l)
    | .precondition => .next (if isAddress { a := a, b := b } then s.goto 0x6 .setup l else s.finish .rejected)
    | .setup => .next ({ s with addr := { a := a, b := b } }.goto 0x6 .finish l)
    | .finish => .next (s.finish .ok)
    | _ => .fault .noSuchPosition

/-- INIT under parameters `p` (rules R244 to R246): the reset strobe, then one register write per table entry, in
table order. -/
def initStep (p : Params) (s : State) : Out :=
  atOp 0x7 s fun pos l =>
    match pos with
    | .start => .next (s.goto 0x7 (.bus .initReset .clear) l)
    | .bus .initReset b =>
      busStep p (strobeXfer p.stbReset p.tReset) 0x7 .initReset l
        (if p.configTable = [] then .run 0x7 .finish l else .run 0x7 .tableEntry { l with ci := 0 })
        State.abort b s
    | .tableEntry => .next (s.goto 0x7 (.bus .initWrite .clear) l)
    | .bus .initWrite b =>
      match p.configTable[l.ci]? with
      | none => .fault .noSuchPosition
      | some e =>
        busStep p (writeXfer p e.1 e.2) 0x7 .initWrite l
          (if l.ci + 1 < p.configTable.length then .run 0x7 .tableEntry { l with ci := l.ci + 1 }
            else .run 0x7 .finish l)
          State.abort b s
    | .finish => .next (s.finish .ok)
    | _ => .fault .noSuchPosition

/-- INIT. -/
def execInit (s : State) : Out := initStep sbfcParams s

/-- NOP (rule R248): its pseudocode is one line, so it is one step (rule R79); the word is legal, so it is
`finish(OK)`. -/
def execNop (s : State) : Out :=
  atOp 0x0 s fun pos _ =>
    match pos with
    | .start => .next (s.finish .ok)
    | _ => .fault .noSuchPosition

end Sys2Proof.Machine
end

