-- ==== Sys2Proof/Machine/Bus.lean ====
section
/-! DEFINITION. RDREG, WRREG and STROBE (40_bus_primitives.md rules R141, R146, R151): one transaction each. A meaning
is the command's next SEQ step (20_memory.md rule R79). -/

namespace Sys2Proof.Machine

/-- RDREG under parameters `p` (rule R141). RESULT is written in the `finish` step (rule R143). -/
def rdregStep (p : Params) (a : RegAddr) (s : State) : Out :=
  atOp 0x1 s fun pos l =>
    match pos with
    | .start => .next (s.goto 0x1 .operands l)
    | .operands => .next (s.goto 0x1 (.bus .cmd .clear) l)
    | .bus .cmd b => busStep p (readXfer p a) 0x1 .cmd l (.run 0x1 .finish l) State.abort b s
    | .finish => .next ({ s with rdata := l.v }.finish .ok)
    | _ => .fault .noSuchPosition

/-- WRREG under parameters `p` (rule R146). -/
def wrregStep (p : Params) (a : RegAddr) (v : Byte) (s : State) : Out :=
  atOp 0x2 s fun pos l =>
    match pos with
    | .start => .next (s.goto 0x2 (.bus .cmd .clear) l)
    | .bus .cmd b => busStep p (writeXfer p a v) 0x2 .cmd l (.run 0x2 .finish l) State.abort b s
    | .finish => .next (s.finish .ok)
    | _ => .fault .noSuchPosition

/-- STROBE under parameters `p` (rules R151, R152): the settle time is the operand, unchanged. -/
def strobeStep (p : Params) (c : Byte) (t : BitVec 16) (s : State) : Out :=
  atOp 0x3 s fun pos l =>
    match pos with
    | .start => .next (s.goto 0x3 (.bus .cmd .clear) l)
    | .bus .cmd b => busStep p (strobeXfer c t.toNat) 0x3 .cmd l (.run 0x3 .finish l) State.abort b s
    | .finish => .next (s.finish .ok)
    | _ => .fault .noSuchPosition

/-- RDREG. -/
def execRdreg (a : RegAddr) (s : State) : Out := rdregStep sbfcParams a s

/-- WRREG. -/
def execWrreg (a : RegAddr) (v : Byte) (s : State) : Out := wrregStep sbfcParams a v s

/-- STROBE. -/
def execStrobe (c : Byte) (t : BitVec 16) (s : State) : Out := strobeStep sbfcParams c t s

end Sys2Proof.Machine
end

