-- ==== Sys2Proof/Machine/Learn.lean ====
section
/-! DEFINITION. LEARN (41_receive_learn.md rules R170 to R185). A meaning is the command's next SEQ step (20_memory.md
rule R79). -/

namespace Sys2Proof.Machine

/-- The parse step (rules R178, R180): one step, which commits ADDR and LSTATE together when the frame matches. The
line `m <- FOUND` is a step after it. -/
def parseStep (l : Locals) (s : State) : State :=
  match parse (s.frame l.len.toNat) with
  | none => s.goto 0x5 (.bus .learnIdle .clear) l
  | some r => { s with addr := r, lstate := .found }.goto 0x5 .setMatch l

/-- LEARN under parameters `p` (rules R170, R178). -/
def learnStep (p : Params) (s : State) : Out :=
  atOp 0x5 s fun pos l =>
    match pos with
    | .start => .next (s.goto 0x5 .precondition l)
    | .precondition => .next (if s.addrValid then s.finish .ok else s.goto 0x5 .setup l)
    | .setup => .next ({ s with lstate := .listening, attempts := 0 }.goto 0x5 .attempt { l with att := 1 })
    | .attempt =>
      .next ({ s with attempts := BitVec.ofNat 8 l.att, fb := Vector.replicate 8 0 }.goto 0x5 (.bus .learnRx .clear) l)
    | .bus .learnRx b =>
      busStep p (strobeXfer p.stbRx p.tRxWait) 0x5 .learnRx l (.run 0x5 (.bus .learnLen .clear) l)
        State.abortLearn b s
    | .bus .learnLen b =>
      busStep p (readXfer p p.rxlenAddr) 0x5 .learnLen l (.run 0x5 .recordLen { l with len := l.v })
        State.abortLearn b s
    | .recordLen => .next ({ s with rxlen := l.len }.goto 0x5 .clearMatch l)
    | .clearMatch => .next (s.goto 0x5 .checkLen { l with m := false })
    | .checkLen =>
      .next (if Const.minFrameExcl < l.len.toNat ∧ l.len.toNat ≤ Const.maxFrame then
          s.goto 0x5 (.bus .learnByte .clear) { l with j := 0 }
        else s.goto 0x5 (.bus .learnIdle .clear) l)
    | .bus .learnByte b =>
      busStep p (readXfer p p.fifoAddr) 0x5 .learnByte l (.run 0x5 .storeByte l) State.abortLearn b s
    | .storeByte =>
      .next (if l.j + 1 < l.len.toNat then
          { s with fb := s.fb.setIfInBounds l.j l.v }.goto 0x5 (.bus .learnByte .clear) { l with j := l.j + 1 }
        else { s with fb := s.fb.setIfInBounds l.j l.v }.goto 0x5 .parse l)
    | .parse => .next (parseStep l s)
    | .setMatch => .next (s.goto 0x5 (.bus .learnIdle .clear) { l with m := true })
    | .bus .learnIdle b =>
      busStep p (strobeXfer p.stbIdle p.tStrobe) 0x5 .learnIdle l (.run 0x5 (.bus .learnFlush .clear) l)
        State.abortLearn b s
    | .bus .learnFlush b =>
      busStep p (strobeXfer p.stbFrx p.tStrobe) 0x5 .learnFlush l (.run 0x5 .attemptResult l) State.abortLearn b s
    | .attemptResult => .next (s.goto 0x5 .checkMatch l)
    | .checkMatch =>
      .next (if l.m then s.finish .found
        else if l.att < p.learnMaxAttempts then s.goto 0x5 .attempt { l with att := l.att + 1 }
        else s.goto 0x5 .exhausted l)
    | .exhausted => .next ({ s with lstate := .exhausted }.goto 0x5 .finish l)
    | .finish => .next (s.finish .exhausted)
    | _ => .fault .noSuchPosition

/-- LEARN. -/
def execLearn (s : State) : Out := learnStep sbfcParams s

end Sys2Proof.Machine
end

