-- ==== Sys2Proof/Machine/Transmit.lean ====
section
/-! DEFINITION. TX (42_transmit.md rules R210 to R219). A meaning is the command's next SEQ step (20_memory.md
rule R79). -/

namespace Sys2Proof.Machine

/-- TX under parameters `p` (rule R210): the precondition (rule R212), REPS_DONE <- 0, then for each repetition the
idle and flush strobes, the burst write of the frame (rule R211), the transmit strobe with its long delay (rule R219)
and REPS_DONE <- rep (rule R215). -/
def txStep (p : Params) (k : CommandCode) (n : Byte) (s : State) : Out :=
  atOp 0x4 s fun pos l =>
    match pos with
    | .start => .next (s.goto 0x4 .precondition l)
    | .precondition => .next (if s.addrValid then s.goto 0x4 .setup l else s.finish .rejected)
    | .setup =>
      .next (if n = 0 then { s with repsDone := 0 }.goto 0x4 .finish l
        else { s with repsDone := 0 }.goto 0x4 (.bus .txIdle .clear) { l with rep := 1 })
    | .bus .txIdle b =>
      busStep p (strobeXfer p.stbIdle p.tStrobe) 0x4 .txIdle l (.run 0x4 (.bus .txFlush .clear) l) State.abort b s
    | .bus .txFlush b =>
      busStep p (strobeXfer p.stbFtx p.tStrobe) 0x4 .txFlush l (.run 0x4 (.bus .txBurst .clear) l) State.abort b s
    | .bus .txBurst b =>
      busStep p (burstXfer p (txPayload p s.addr.a s.addr.b k)) 0x4 .txBurst l (.run 0x4 (.bus .txFire .clear) l)
        State.abort b s
    | .bus .txFire b =>
      busStep p (strobeXfer p.stbTx p.tTx) 0x4 .txFire l (.run 0x4 .countRep l) State.abort b s
    | .countRep =>
      .next (if l.rep < n.toNat then
          { s with repsDone := BitVec.ofNat 8 l.rep }.goto 0x4 (.bus .txIdle .clear) { l with rep := l.rep + 1 }
        else { s with repsDone := BitVec.ofNat 8 l.rep }.goto 0x4 .finish l)
    | .finish => .next (s.finish .ok)
    | _ => .fault .noSuchPosition

/-- TX. -/
def execTx (k : CommandCode) (n : Byte) (s : State) : Out := txStep sbfcParams k n s

end Sys2Proof.Machine
end

