-- ==== Sys2Proof/Machine/Dispatch.lean ====
section
/-! DEFINITION. `exec i s`: the next SEQ step of command `i` in state `s` (20_memory.md rule R79, 30_encoding.md rule
R102). -/

namespace Sys2Proof.Machine

def exec (i : Instr) (s : State) : Host.Outcome State Fault Refusal :=
  match i with
  | .nop => Sys2Proof.Machine.execNop s
  | .rdreg a => Sys2Proof.Machine.execRdreg a s
  | .wrreg a v => Sys2Proof.Machine.execWrreg a v s
  | .strobe c t => Sys2Proof.Machine.execStrobe c t s
  | .tx k n => Sys2Proof.Machine.execTx k n s
  | .learn => Sys2Proof.Machine.execLearn s
  | .setaddr a b => Sys2Proof.Machine.execSetaddr a b s
  | .init => Sys2Proof.Machine.execInit s

end Sys2Proof.Machine
end

