-- ==== Sys2Proof/WellFormed.lean ====
section
/-! DEFINITION. What is well formed. A term of `Instr` always is: its operand types have exactly the widths of
rule R102's fields. What can be ill formed is a 32-bit word (30_encoding.md rule R104), an assembler line
(rules R107, R250), a host access (20_memory.md rule R74) and a parameter set (00_scope.md rule R9, checked by
`Params.legal` in Config.lean). Each check is a Bool of its own. -/

namespace Sys2Proof

open Machine

/-- OP is one of the eight opcodes of rule R102, not a reserved one 0x8..0xF. -/
def wordOpcodeOk (w : Word) : Bool := decide (fieldOp w < 8)

/-- RSV = 0. -/
def wordReservedOk (w : Word) : Bool := decide (fieldRsv w = 0)

/-- Every operand byte that rule R102 marks 0 for this opcode is 0. -/
def wordZeroFieldsOk (w : Word) : Bool :=
  if fieldOp w = 0x1 then decide (fieldF2 w = 0 ∧ fieldF1 w = 0)
  else if fieldOp w = 0x2 ∨ fieldOp w = 0x4 ∨ fieldOp w = 0x6 then decide (fieldF2 w = 0)
  else if fieldOp w = 0x3 then true
  else decide (fieldF2 w = 0 ∧ fieldF1 w = 0 ∧ fieldF0 w = 0)

/-- F0 bit 7 = 0 in RDREG and WRREG. -/
def wordAddressOk (w : Word) : Bool :=
  if fieldOp w = 0x1 ∨ fieldOp w = 0x2 then decide (fieldAddrTop w = 0) else true

/-- F0 bits 7:2 = 0 in TX. -/
def wordSelectorOk (w : Word) : Bool :=
  if fieldOp w = 0x4 then decide (fieldSelTop w = 0) else true

/-- A legal command word (rule R104). -/
def legalWord (w : Word) : Bool :=
  wordOpcodeOk w && wordReservedOk w && wordZeroFieldsOk w && wordAddressOk w && wordSelectorOk w

/-- Every number of an assembler line is in its operand's range (rules R107, R250). The pseudo-instructions that
take their operands from the configuration are checked at their expansion. -/
def AsmLine.inRange : AsmLine → Bool
  | .nop => true
  | .rdreg a => decide (a ≤ 0x7F)
  | .wrreg a v => decide (a ≤ 0x7F ∧ v ≤ 0xFF)
  | .strobe c t => decide (c ≤ 0xFF ∧ t ≤ 0xFFFF)
  | .tx _ n => decide (n ≤ 0xFF)
  | .learn => true
  | .setaddr a b => decide (a ≤ 0xFF ∧ b ≤ 0xFF)
  | .init => true
  | .turnoff n => decide (n.getD 0 ≤ 0xFF)
  | .turnon50 n => decide (n.getD 0 ≤ 0xFF)
  | .turnon100 n => decide (n.getD 0 ≤ 0xFF)
  | .transmit _ n => decide (n.getD 0 ≤ 0xFF)
  | .replay _ => true
  | .srx => true
  | .stx => true
  | .sidle => true
  | .sfrx => true
  | .sftx => true
  | .sres => true
  | .rdfifo => true
  | .wrfifo v => decide (v ≤ 0xFF)

/-- The byte offset of a host access. -/
def HostAccess.off : HostAccess → Nat
  | .read o _ => o
  | .write o _ _ => o

/-- The width in bytes of a host access. -/
def HostAccess.width : HostAccess → Nat
  | .read _ n => n
  | .write _ n _ => n

/-- The access is a 32-bit access at an offset that is a multiple of 4 (rule R74). -/
def HostAccess.aligned (a : HostAccess) : Bool := decide (a.width = 4 ∧ a.off % 4 = 0)

/-- The access is inside the 32-byte window (rule R70). -/
def HostAccess.inWindow (a : HostAccess) : Bool := decide (a.off < 32)

end Sys2Proof
end

