-- ==== Sys2Proof/Decode.lean ====
section
/-! DEFINITION. Decoding of the 32-bit command word (30_encoding.md rules R100 to R106), total, each refusal with a
name, and the encoder written from the same table (rule R107). -/

namespace Sys2Proof

open Machine

/-- Why a word is ILLEGAL (rule R104). Every one of these is reported the same way, by the completion code ILLEGAL;
the name only says which condition failed. -/
inductive IllegalWord where
  /-- OP in 0x8..0xF. -/
  | reservedOpcode
  /-- RSV ≠ 0. -/
  | reservedBits
  /-- An operand byte that must be zero is not. -/
  | mustBeZero
  /-- F0 bit 7 = 1 in RDREG or WRREG. -/
  | addressBit7
  /-- F0 bits 7:2 ≠ 0 in TX. -/
  | selectorBits
deriving DecidableEq, Repr

/-- The command a word's operand bytes name, once OP and RSV have been looked at (rule R102). -/
def decodeFields (w : Word) : Except IllegalWord Instr :=
  if fieldOp w = 0x0 then
    if fieldF2 w = 0 ∧ fieldF1 w = 0 ∧ fieldF0 w = 0 then .ok .nop else .error .mustBeZero
  else if fieldOp w = 0x1 then
    if fieldF2 w = 0 ∧ fieldF1 w = 0 then
      if fieldAddrTop w = 0 then .ok (.rdreg (fieldAddr w)) else .error .addressBit7
    else .error .mustBeZero
  else if fieldOp w = 0x2 then
    if fieldF2 w = 0 then
      if fieldAddrTop w = 0 then .ok (.wrreg (fieldAddr w) (fieldF1 w)) else .error .addressBit7
    else .error .mustBeZero
  else if fieldOp w = 0x3 then .ok (.strobe (fieldF0 w) (fieldSettle w))
  else if fieldOp w = 0x4 then
    if fieldF2 w = 0 then
      if fieldSelTop w = 0 then .ok (.tx (codeOf (fieldSel w)) (fieldF1 w)) else .error .selectorBits
    else .error .mustBeZero
  else if fieldOp w = 0x5 then
    if fieldF2 w = 0 ∧ fieldF1 w = 0 ∧ fieldF0 w = 0 then .ok .learn else .error .mustBeZero
  else if fieldOp w = 0x6 then
    if fieldF2 w = 0 then .ok (.setaddr (fieldF0 w) (fieldF1 w)) else .error .mustBeZero
  else if fieldOp w = 0x7 then
    if fieldF2 w = 0 ∧ fieldF1 w = 0 ∧ fieldF0 w = 0 then .ok .init else .error .mustBeZero
  else .error .reservedOpcode

/-- Decoding is total (rule R106): every word is exactly one legal command, or ILLEGAL. -/
def decode (w : Word) : Except IllegalWord Instr :=
  if fieldRsv w = 0 then decodeFields w else .error .reservedBits

/-- A command word from its fields OP, F2, F1, F0, with RSV = 0 (rule R101). -/
def packWord (op : BitVec 4) (f2 f1 f0 : Byte) : Word := op ++ (0 : BitVec 4) ++ f2 ++ f1 ++ f0

/-- The word of a command (rule R107). -/
def encode : Instr → Word
  | .nop => packWord 0x0 0 0 0
  | .rdreg a => packWord 0x1 0 0 (a.setWidth 8)
  | .wrreg a v => packWord 0x2 0 v (a.setWidth 8)
  | .strobe c t => packWord 0x3 (t.extractLsb' 8 8) (t.extractLsb' 0 8) c
  | .tx k n => packWord 0x4 0 n ((selOf k).setWidth 8)
  | .learn => packWord 0x5 0 0 0
  | .setaddr a b => packWord 0x6 0 b a
  | .init => packWord 0x7 0 0 0

/-- The word whose bits below `nbits` are those of `w` and whose other bits are 0. -/
def tableWord (nbits w : Nat) : Word := BitVec.ofNat 32 (w % 2 ^ nbits)

/-- The command the decoder reads from the table's numbering of an instruction's bits: the command word has one
word, so its bit 0 is bit 0 of that word. -/
def decodeTableWord (nbits w : Nat) : Option Instr :=
  match decode (tableWord nbits w) with
  | .ok i => some i
  | .error _ => none

end Sys2Proof
end

