-- ==== Sys2Proof/Machine/HostWindow.lean ====
section
/-! DEFINITION. The host side: the window (20_memory.md rules R70 to R74), the accepted and the refused write of CMD
(10_state.md rule R36, 60_exceptions.md rule R264), the reset input (70_reset_and_hazards.md rules R290 to R293), the
illegal command (60_exceptions.md rule R262), and one turn of the interleaving (rule R85). -/

namespace Sys2Proof.Machine

/-- An accepted write of `w` to CMD (rule R36): OPL, DONE, BUSY and SEQ. Nothing else is written. -/
def State.accept (w : Word) (s : State) : State :=
  { s with opl := w, done := .none, busy := true, seq := .run (fieldOp w) .start {} }

/-- A write of `w` to CMD (rules R36, R264): accepted when BUSY = 0, else lost and recorded in OVERRUN. -/
def State.writeCmd (w : Word) (s : State) : State :=
  if s.busy then { s with overrun := true } else s.accept w

/-- The word a host read of the register at a byte offset returns (rules R71, R72): CMD and the reserved slot read
0. -/
def State.readReg (s : State) (off : Nat) : Word :=
  if off = 0x04 then s.statusWord
  else if off = 0x08 then s.resultWord
  else if off = 0x0C then s.addrWord
  else if off = 0x10 then s.rxbuf0Word
  else if off = 0x14 then s.rxbuf1Word
  else if off = 0x18 then s.rxlenWord
  else 0

/-- The effect of a host write at a byte offset (rules R71 to R73): only CMD takes a write. -/
def State.writeReg (off : Nat) (w : Word) (s : State) : State :=
  if off = 0x00 then s.writeCmd w else s

/-- A host read returns its word to the host and has no other effect (rules R73, R82). -/
def State.returnWord (w : Word) (s : State) : State :=
  { s with env := { s.env with reads := s.env.reads ++ [w] } }

/-- A host access of the one legal shape. While RST is asserted every piece of state holds its reset value
(rule R290), so a write then has no effect. -/
def State.access (a : HostAccess) (s : State) : State :=
  match a with
  | .read off _ => s.returnWord (s.readReg off)
  | .write off _ w => if s.env.rst then s else s.writeReg off w

/-- One host turn (rules R74, R79): an access of another width, at a misaligned offset or outside the window is
refused, with no state change and no value. -/
def hostTurn (a : HostAccess) (s : State) : Out :=
  if a.aligned then
    if a.inWindow then .next (s.access a) else .refused .outsideWindow
  else .refused .hostAccessShape

/-- RST becomes asserted or released (rule R290): every piece of state takes its reset value, and SEL, if it was
asserted, is deasserted on the bus. -/
def State.setRst (on : Bool) (s : State) : State :=
  State.resetWith (if s.sel = .asserted then s.trace ++ [.desel] else s.trace) { s.env with rst := on }

/-- The one SEQ step of an accepted illegal word (rules R104, R262). -/
def illegalStep (s : State) : Out :=
  match s.seq with
  | .run _ .start _ => .next (s.finish .illegal)
  | _ => .fault .noSuchPosition

/-- One SEQ step (rule R79): none while SEQ is idle (rule R277) or RST is asserted; else the next step of the command
in OPL, which `run` gives, or of an illegal word. -/
def seqTurn (run : Instr → State → Out) (s : State) : Out :=
  if s.env.rst then .next s
  else
    match s.seq with
    | .idle => .next s
    | .run _ _ _ =>
      match decode s.opl with
      | .ok i => run i s
      | .error _ => illegalStep s

/-- The state with the listed turns replaced. -/
def State.withTurns (ts : List Turn) (s : State) : State := { s with env := { s.env with turns := ts } }

/-- One step of the machine: the next turn of the interleaving (rules R20, R85); with no turn listed the host is done
and the SEQ makes the step. -/
def turnStep (run : Instr → State → Out) (s : State) : Out :=
  match s.env.turns with
  | [] => seqTurn run s
  | .seq :: ts => seqTurn run (s.withTurns ts)
  | .host a :: ts => hostTurn a (s.withTurns ts)
  | .rst on :: ts => .next ((s.withTurns ts).setRst on)

/-- The state in which the next step is the first SEQ step of the command word of the given bits: CMD has just been
written with it and accepted (rule R36), RST is released, and where turns are listed the SEQ has the first one. -/
def State.loadWord (s : State) (nbits w : Nat) : State :=
  { s with env := { s.env with
      rst := false
      turns := match s.env.turns with
        | [] => []
        | ts => .seq :: ts } }.accept (tableWord nbits w)

end Sys2Proof.Machine
end

