-- ==== Sys2Proof/Machine/Step.lean ====
section
/-! DEFINITION. One step of the machine (20_memory.md rules R79, R85), and the state in which the next step runs a
given command word. -/

namespace Sys2Proof.Machine

/-- One step: the next turn of host, SEQ or reset input, SEQ steps by `exec`. -/
def step (s : State) : Host.Outcome State Fault Refusal := turnStep exec s

/-- `s` with the command word of the given bits accepted at CMD, so that the next step is its first SEQ step. -/
def State.withFetchWord (s : State) (nbits w : Nat) : State := s.loadWord nbits w

end Sys2Proof.Machine
end

