-- ==== Sys2Proof/Machine/Asm.lean ====
section
/-! DEFINITION. The assembler: the text of one line (30_encoding.md rule R107), the pseudo-instructions
(43_address_init.md rule R250), and the command word of a line. -/

namespace Sys2Proof.Machine

/-- `strobe c, t` with operands from the configuration: only where `t` fits the 16-bit field (rule R250). -/
def asmStrobe (c : Byte) (t : Nat) : Option Instr :=
  if t ≤ 0xFFFF then some (.strobe c (BitVec.ofNat 16 t)) else none

/-- The command of a line whose numbers are in range (rules R107, R250). -/
def asmExpand (p : Params) : AsmLine → Option Instr
  | .nop => some .nop
  | .rdreg a => some (.rdreg (BitVec.ofNat 7 a))
  | .wrreg a v => some (.wrreg (BitVec.ofNat 7 a) (BitVec.ofNat 8 v))
  | .strobe c t => some (.strobe (BitVec.ofNat 8 c) (BitVec.ofNat 16 t))
  | .tx k n => some (.tx k (BitVec.ofNat 8 n))
  | .learn => some .learn
  | .setaddr a b => some (.setaddr (BitVec.ofNat 8 a) (BitVec.ofNat 8 b))
  | .init => some .init
  | .turnoff n => some (.tx .off (BitVec.ofNat 8 (n.getD Const.hostDefaultReps)))
  | .turnon50 n => some (.tx .dim50 (BitVec.ofNat 8 (n.getD Const.hostDefaultReps)))
  | .turnon100 n => some (.tx .dim100 (BitVec.ofNat 8 (n.getD Const.hostDefaultReps)))
  | .transmit k n => some (.tx k (BitVec.ofNat 8 (n.getD Const.txDefaultReps)))
  | .replay k => some (.tx k 1)
  | .srx => asmStrobe p.stbRx p.tRxWait
  | .stx => asmStrobe p.stbTx p.tTx
  | .sidle => asmStrobe p.stbIdle p.tStrobe
  | .sfrx => asmStrobe p.stbFrx p.tStrobe
  | .sftx => asmStrobe p.stbFtx p.tStrobe
  | .sres => asmStrobe p.stbReset p.tReset
  | .rdfifo => some (.rdreg p.fifoAddr)
  | .wrfifo v => some (.wrreg p.fifoAddr (BitVec.ofNat 8 v))

/-- The command of a line; a number out of its operand's range is refused (rule R107). -/
def asmCommand (p : Params) (l : AsmLine) : Option Instr :=
  if l.inRange then asmExpand p l else none

/-- The command word of a line. -/
def asmWord (p : Params) (l : AsmLine) : Option Word := (asmCommand p l).map encode

/-- A blank inside a line. -/
def isBlank (c : Char) : Bool := c == ' ' || c == '\t'

/-- A text without the blanks at its two ends. -/
def trimBlanks (cs : List Char) : List Char := ((cs.dropWhile isBlank).reverse.dropWhile isBlank).reverse

/-- The parts of a text between commas. -/
def splitCommas : List Char → List (List Char)
  | [] => [[]]
  | c :: cs =>
    if c = ',' then [] :: splitCommas cs
    else
      match splitCommas cs with
      | [] => [[c]]
      | t :: ts => (c :: t) :: ts

/-- The value of one digit in base 16 or below. -/
def digitValue (base : Nat) (c : Char) : Option Nat :=
  let n := c.toNat
  let d := if 48 ≤ n ∧ n ≤ 57 then n - 48 else if 97 ≤ n ∧ n ≤ 102 then n - 87 else if 65 ≤ n ∧ n ≤ 70 then n - 55 else base
  if d < base then some d else none

/-- The value of a row of digits, the most significant first. -/
def digitsValue (base : Nat) (acc : Nat) : List Char → Option Nat
  | [] => some acc
  | c :: cs =>
    match digitValue base c with
    | none => none
    | some d => digitsValue base (acc * base + d) cs

/-- A number, decimal or `0x` hexadecimal (rule R107). -/
def parseNumber : List Char → Option Nat
  | [] => none
  | '0' :: 'x' :: c :: cs => digitsValue 16 0 (c :: cs)
  | c :: cs => digitsValue 10 0 (c :: cs)

/-- A command name of TX: `off`, `dim50`, `dim100` or `pair` (rule R107). -/
def parseCode (cs : List Char) : Option CommandCode :=
  if cs = ['o', 'f', 'f'] then some .off
  else if cs = ['d', 'i', 'm', '5', '0'] then some .dim50
  else if cs = ['d', 'i', 'm', '1', '0', '0'] then some .dim100
  else if cs = ['p', 'a', 'i', 'r'] then some .pair
  else none

/-- A line with no operand. -/
def parse0 (l : AsmLine) : List (List Char) → Option AsmLine
  | [] => some l
  | _ => none

/-- A line with one number. -/
def parse1 (f : Nat → AsmLine) : List (List Char) → Option AsmLine
  | [x] => (parseNumber x).map f
  | _ => none

/-- A line with two numbers. -/
def parse2 (f : Nat → Nat → AsmLine) : List (List Char) → Option AsmLine
  | [x, y] =>
    match parseNumber x, parseNumber y with
    | some a, some b => some (f a b)
    | _, _ => none
  | _ => none

/-- A line with an optional number. -/
def parseOpt (f : Option Nat → AsmLine) : List (List Char) → Option AsmLine
  | [] => some (f none)
  | [x] => (parseNumber x).map fun n => f (some n)
  | _ => none

/-- A line with a command name and an optional number. -/
def parseCodeOpt (f : CommandCode → Option Nat → AsmLine) : List (List Char) → Option AsmLine
  | [] => none
  | k :: rest =>
    match parseCode k with
    | none => none
    | some k => parseOpt (f k) rest

/-- `tx k, n`: both operands are given (rule R223). -/
def parseTx : List (List Char) → Option AsmLine
  | [k, x] =>
    match parseCode k, parseNumber x with
    | some k, some n => some (.tx k n)
    | _, _ => none
  | _ => none

/-- `replay k`. -/
def parseReplay : List (List Char) → Option AsmLine
  | [k] => (parseCode k).map .replay
  | _ => none

/-- The mnemonics of rules R107 and R250, each with the reader of its operands. -/
def asmMnemonics : List (List Char × (List (List Char) → Option AsmLine)) :=
  [(['n', 'o', 'p'], parse0 .nop),
   (['r', 'd', 'r', 'e', 'g'], parse1 .rdreg),
   (['w', 'r', 'r', 'e', 'g'], parse2 .wrreg),
   (['s', 't', 'r', 'o', 'b', 'e'], parse2 .strobe),
   (['t', 'x'], parseTx),
   (['l', 'e', 'a', 'r', 'n'], parse0 .learn),
   (['s', 'e', 't', 'a', 'd', 'd', 'r'], parse2 .setaddr),
   (['i', 'n', 'i', 't'], parse0 .init),
   (['t', 'u', 'r', 'n', 'o', 'f', 'f'], parseOpt .turnoff),
   (['t', 'u', 'r', 'n', 'o', 'n', '5', '0'], parseOpt .turnon50),
   (['t', 'u', 'r', 'n', 'o', 'n', '1', '0', '0'], parseOpt .turnon100),
   (['t', 'r', 'a', 'n', 's', 'm', 'i', 't'], parseCodeOpt .transmit),
   (['r', 'e', 'p', 'l', 'a', 'y'], parseReplay),
   (['s', 'r', 'x'], parse0 .srx),
   (['s', 't', 'x'], parse0 .stx),
   (['s', 'i', 'd', 'l', 'e'], parse0 .sidle),
   (['s', 'f', 'r', 'x'], parse0 .sfrx),
   (['s', 'f', 't', 'x'], parse0 .sftx),
   (['s', 'r', 'e', 's'], parse0 .sres),
   (['r', 'd', 'f', 'i', 'f', 'o'], parse0 .rdfifo),
   (['w', 'r', 'f', 'i', 'f', 'o'], parse1 .wrfifo)]

/-- The operands of a line's rest: the parts between commas, without blanks at their ends; none where the rest is
blank. -/
def splitOperands (cs : List Char) : List (List Char) :=
  if trimBlanks cs = [] then [] else (splitCommas cs).map trimBlanks

/-- The reader of a mnemonic's operands. -/
def findMnemonic (name : List Char) :
    List (List Char × (List (List Char) → Option AsmLine)) → Option (List (List Char) → Option AsmLine)
  | [] => none
  | (m, f) :: rest => if m = name then some f else findMnemonic name rest

/-- The text of one line: a mnemonic, then its operands separated by commas (rule R107). -/
def parseLine (text : List Char) : Option AsmLine :=
  let cs := trimBlanks text
  match findMnemonic (cs.takeWhile fun c => !isBlank c) asmMnemonics with
  | none => none
  | some f => f (splitOperands (cs.dropWhile fun c => !isBlank c))

/-- The command word of a line of text. -/
def assemble (p : Params) (text : List Char) : Option Word :=
  match parseLine text with
  | none => none
  | some l => asmWord p l

end Sys2Proof.Machine
end

