-- ==== Sys2Proof/Safety.lean ====
section
/-! DEFINITION. What a safe state is (`State.Inv`), the run of one command alone, and the measures of a trace that
claims are stated in. -/

namespace Sys2Proof.Machine

/-- The next SEQ step of a command under the parameters `p`: the meanings before they are given the modelled
instance's parameters (rule R8: claims that need one value of a parameter are made about this). -/
def commandStep (p : Params) (i : Instr) (s : State) : Out :=
  match i with
  | .nop => execNop s
  | .rdreg a => rdregStep p a s
  | .wrreg a v => wrregStep p a v s
  | .strobe c t => strobeStep p c t s
  | .tx k n => txStep p k n s
  | .learn => learnStep p s
  | .setaddr a b => execSetaddr a b s
  | .init => initStep p s

/-- `k` repetitions of a step function, stopping at the first fault or refusal. -/
def runFn (f : State → Out) : Nat → State → Out
  | 0, s => .next s
  | k + 1, s =>
    match f s with
    | .next t => runFn f k t
    | .fault r => .fault r
    | .refused r => .refused r

/-- `k` SEQ steps of command `i`, no other agent in between. -/
def runInstr (i : Instr) (k : Nat) (s : State) : Out := runFn (exec i) k s

/-- The events a transaction appends (rule R136): `n` samples, `i0` received with the header, `is` with the
payload. -/
def xferTrace (p : Params) (x : Xfer) (n : Nat) (i0 : Byte) (is : List Byte) : List Event :=
  [.wait n, .sel, .x x.header i0] ++ (x.payload.zip is).flatMap (fun oi => [.gap p.tByte, .x oi.1 oi.2]) ++
    [.desel, .dly x.settle]

/-- The bytes the SBFC sent in a trace, in order. -/
def sentBytes (es : List Event) : List Byte :=
  es.filterMap fun e => match e with
    | .x o _ => some o
    | _ => none

/-- The readiness samples of one wait for each of `ws`: that many asserted ones, then the deasserted one that ends it
(rule R131). -/
def waitDraws (ws : List Nat) : List Level := ws.flatMap fun m => List.replicate m .asserted ++ [.deasserted]

/-- WCNT after the waits `ws`, the last of which leaves the number of its samples there; where there is none, as
before (log entry 5). -/
def wcntAfter (ws : List Nat) (before : Nat) : Nat := (ws.getLast?.map (· + 1)).getD before

/-- Every one of the waits `ws` ends before a bound of samples is reached (rule R131). -/
def waitsAllowed (p : Params) (ws : List Nat) : Prop := ∀ b, p.readyTimeout = some b → ∀ m ∈ ws, m < b

/-- The number of transactions in a trace: each has exactly one WAIT (rule R136). -/
def transactions (es : List Event) : Nat :=
  (es.filter fun e => match e with
    | .wait _ => true
    | _ => false).length

/-- The least time an event takes, in microseconds (rules R16, R305): readiness waits and exchanges count as zero. -/
def Event.minTime : Event → Nat
  | .gap t => t
  | .dly t => t
  | _ => 0

/-- The least time a trace takes (rule R305). -/
def minTime (es : List Event) : Nat := (es.map Event.minTime).sum

/-- The level of SEL at a position (rule R55): asserted from after `Select()` up to `Deselect()`. -/
def selAt : Pos → Level
  | .bus _ .header => .asserted
  | .bus _ (.gap _) => .asserted
  | .bus _ (.payload _) => .asserted
  | .bus _ .deselect => .asserted
  | _ => .deasserted

/-- A position inside transaction `x` that the transaction has: its payload index is in range, and a wait under a
bound of N samples has taken fewer than N (rule R131). -/
def BusPos.within (p : Params) (x : Xfer) (wcnt : Nat) : BusPos → Prop
  | .sample => ∀ n, p.readyTimeout = some n → wcnt < n
  | .gap k => k < x.payload.length
  | .payload k => k < x.payload.length
  | _ => True

/-- The learning machine is in an attempt with no match so far (rules R171, R180). -/
def State.listening (l : Locals) (s : State) : Prop :=
  s.lstate = .listening ∧ s.addrValid = false ∧ 1 ≤ l.att ∧ l.att ≤ sbfcParams.learnMaxAttempts ∧
    s.attempts = BitVec.ofNat 8 l.att

/-- The learning machine is past the parse of an attempt (rules R180, R267, C9). -/
def State.parsed (l : Locals) (s : State) : Prop :=
  (l.m = true → s.lstate = .found ∧ s.addrValid = true) ∧ (l.m = false → s.lstate = .listening ∧ s.addrValid = false) ∧
    1 ≤ l.att ∧ l.att ≤ sbfcParams.learnMaxAttempts ∧ s.attempts = BitVec.ofNat 8 l.att

/-- The reported length is one whose frame is read, and RXLEN shows it (rules R173, R176). -/
def State.reading (l : Locals) (s : State) : Prop :=
  Const.minFrameExcl < l.len.toNat ∧ l.len.toNat ≤ Const.maxFrame ∧ s.rxlen = l.len

/-- The repetition loop of TX with count `n` is in repetition `rep` (rule R215). -/
def State.repeating (n : Byte) (l : Locals) (s : State) : Prop :=
  s.addrValid = true ∧ 1 ≤ l.rep ∧ l.rep ≤ n.toNat ∧ s.repsDone.toNat + 1 = l.rep

/-- The only transaction line of RDREG, WRREG and STROBE (rules R141, R146, R151). -/
def cmdXfer (x : Xfer) (t : Txn) : Option Xfer := if t = .cmd then some x else none

/-- The transaction lines of TX (rule R210). -/
def txXfer (p : Params) (adr : FixtureAddress) (k : CommandCode) : Txn → Option Xfer
  | .txIdle => some (strobeXfer p.stbIdle p.tStrobe)
  | .txFlush => some (strobeXfer p.stbFtx p.tStrobe)
  | .txBurst => some (burstXfer p (txPayload p adr.a adr.b k))
  | .txFire => some (strobeXfer p.stbTx p.tTx)
  | _ => none

/-- The transaction lines of LEARN (rule R178). -/
def learnXfer (p : Params) : Txn → Option Xfer
  | .learnRx => some (strobeXfer p.stbRx p.tRxWait)
  | .learnLen => some (readXfer p p.rxlenAddr)
  | .learnByte => some (readXfer p p.fifoAddr)
  | .learnIdle => some (strobeXfer p.stbIdle p.tStrobe)
  | .learnFlush => some (strobeXfer p.stbFrx p.tStrobe)
  | _ => none

/-- The transaction lines of INIT (rule R244). -/
def initXfer (p : Params) (ci : Nat) : Txn → Option Xfer
  | .initReset => some (strobeXfer p.stbReset p.tReset)
  | .initWrite => (p.configTable[ci]?).map fun e => writeXfer p e.1 e.2
  | _ => none

/-- The transaction that line `t` of command `i` performs, with locals `l` and ADDR = `adr`; none where the command has
no such line. -/
def xferOf (p : Params) (adr : FixtureAddress) (l : Locals) (i : Instr) (t : Txn) : Option Xfer :=
  match i with
  | .nop => none
  | .rdreg a => cmdXfer (readXfer p a) t
  | .wrreg a v => cmdXfer (writeXfer p a v) t
  | .strobe c d => cmdXfer (strobeXfer c d.toNat) t
  | .tx k _ => txXfer p adr k t
  | .learn => learnXfer p t
  | .setaddr _ _ => none
  | .init => initXfer p l.ci t

/-- What holds during a transaction line of LEARN, beside the transaction's own position. -/
def State.learnTxnOk (l : Locals) (s : State) : Txn → Prop
  | .learnRx => s.listening l ∧ s.fb = Vector.replicate 8 0
  | .learnLen => s.listening l ∧ s.fb = Vector.replicate 8 0
  | .learnByte => s.listening l ∧ l.m = false ∧ s.reading l ∧ l.j < l.len.toNat
  | _ => s.parsed l

/-- What holds during line `t` of command `i`, beside the transaction's own position. -/
def State.txnOk (l : Locals) (s : State) (i : Instr) (t : Txn) : Prop :=
  match i with
  | .tx _ n => s.repeating n l
  | .learn => s.learnTxnOk l t
  | _ => True

/-- What holds at the lines of TX that are no transaction; a position TX does not have is excluded. -/
def State.txLineOk (n : Byte) (l : Locals) (s : State) : Pos → Prop
  | .precondition => True
  | .setup => s.addrValid = true
  | .countRep => s.repeating n l
  | .finish => s.addrValid = true ∧ s.repsDone = n
  | _ => False

/-- What holds at the lines of LEARN that are no transaction; a position LEARN does not have is excluded. -/
def State.learnLineOk (l : Locals) (s : State) : Pos → Prop
  | .precondition => True
  | .setup => s.addrValid = false
  | .attempt =>
    s.lstate = .listening ∧ s.addrValid = false ∧ 1 ≤ l.att ∧ l.att ≤ sbfcParams.learnMaxAttempts ∧
      s.attempts.toNat + 1 = l.att
  | .recordLen => s.listening l ∧ s.fb = Vector.replicate 8 0
  | .clearMatch => s.listening l ∧ s.rxlen = l.len
  | .checkLen => s.listening l ∧ l.m = false ∧ s.rxlen = l.len
  | .storeByte => s.listening l ∧ l.m = false ∧ s.reading l ∧ l.j < l.len.toNat
  | .parse => s.listening l ∧ l.m = false ∧ s.reading l
  | .setMatch =>
    s.lstate = .found ∧ s.addrValid = true ∧ 1 ≤ l.att ∧ l.att ≤ sbfcParams.learnMaxAttempts ∧
      s.attempts = BitVec.ofNat 8 l.att
  | .attemptResult => s.parsed l
  | .checkMatch => s.parsed l
  | .exhausted =>
    s.lstate = .listening ∧ s.addrValid = false ∧ s.attempts = BitVec.ofNat 8 sbfcParams.learnMaxAttempts
  | .finish =>
    s.lstate = .exhausted ∧ s.addrValid = false ∧ s.attempts = BitVec.ofNat 8 sbfcParams.learnMaxAttempts
  | _ => False

/-- What holds at the lines of SETADDR; a position SETADDR does not have is excluded. -/
def State.setaddrLineOk (a b : Byte) (s : State) : Pos → Prop
  | .operands => True
  | .precondition => True
  | .setup => isAddress { a := a, b := b } = true
  | .finish => s.addr = { a := a, b := b } ∧ s.addrValid = true
  | _ => False

/-- What holds at the lines of INIT that are no transaction; a position INIT does not have is excluded. -/
def initLineOk (l : Locals) : Pos → Prop
  | .tableEntry => l.ci < sbfcParams.configTable.length
  | .finish => True
  | _ => False

/-- What holds at a line of command `i` that is no transaction, past the legality line. -/
def State.lineOk (l : Locals) (s : State) (i : Instr) (pos : Pos) : Prop :=
  match i with
  | .nop => False
  | .rdreg _ => pos = .operands ∨ pos = .finish
  | .wrreg _ _ => pos = .finish
  | .strobe _ _ => pos = .finish
  | .tx _ n => s.txLineOk n l pos
  | .learn => s.learnLineOk l pos
  | .setaddr a b => s.setaddrLineOk a b pos
  | .init => initLineOk l pos

/-- What holds at a position past the legality line of command `i`; a position that the command's pseudocode does not
have is excluded. -/
def State.posOk (l : Locals) (s : State) (i : Instr) (pos : Pos) : Prop :=
  match pos with
  | .bus t b => s.txnOk l i t ∧ ∃ x, xferOf sbfcParams s.addr l i t = some x ∧ b.within sbfcParams x s.wcnt
  | pos => s.lineOk l i pos

/-- What holds of SEQ, OPL, DONE and SEL (rules R33, R36, R39, R55): while a command runs, DONE is NONE, `op` is OPL's
opcode, SEL is as the position says, and past the legality line OPL is a legal word at one of its command's
positions. -/
def State.seqOk (s : State) : Prop :=
  match s.seq with
  | .idle => s.sel = .deasserted
  | .run op pos l =>
    s.done = .none ∧ op = fieldOp s.opl ∧ s.sel = selAt pos ∧
      (pos = .start ∨ ∃ i, decode s.opl = .ok i ∧ s.posOk l i pos)

/-- The invariant: BUSY says whether SEQ runs (rule R33); a FOUND learning state has an address (C9); ATTEMPTS is
within its bound (rule R43); a byte of FB is non-zero only inside a frame that was read (rule R54); asserted RST holds
every piece of state at its reset value (rule R290); and SEQ is at a position its command has. -/
def State.Inv (s : State) : Prop :=
  (s.busy = true ↔ s.seq ≠ .idle) ∧
  (s.lstate = .found → s.addrValid = true) ∧
  s.attempts.toNat ≤ sbfcParams.learnMaxAttempts ∧
  (∀ j (h : j < 8), s.fb[j] ≠ 0 → j < s.rxlen.toNat ∧ s.rxlen.toNat ≤ Const.maxFrame) ∧
  (s.env.rst = true → s = State.resetWith s.trace s.env) ∧
  s.seqOk

end Sys2Proof.Machine
end

