-- ==== Sys2Proof/Certificates/Slice0/Obligations.lean ====
section
/-! DEFINITION. The statements for the provers. `exec i s` is ONE SEQ step of command `i` (20_memory.md rule R79), so a
statement about a whole command says what `runInstr i k s`, k SEQ steps of it, leads to; draws are the lists `env.brl`
and `env.rx`, which a statement quantifies over (rule R21). Log entries named in a docstring are the model's choices; a
number of steps rests on log entries 4 and 5, the model's reading of rule R79. -/

open Sys2Proof Sys2Proof.Machine

/-- Decode and encode agree on every command (rules R102, R107). -/
def Obligations.DecodeEncodeRoundTrip : Prop :=
  ∀ i : Instr, decode (encode i) = .ok i

/-- A word has one meaning: what decodes to a command is that command's word (rule R106). -/
def Obligations.DecodedWordReencodes : Prop :=
  ∀ (w : Word) (i : Instr), decode w = .ok i → encode i = w

/-- The decoder accepts exactly the legal words of rule R104's conditions, and answers for every word (rule R106). -/
def Obligations.DecoderAcceptsExactlyLegalWords : Prop :=
  ∀ w : Word, (legalWord w = true ∧ ∃ i, decode w = .ok i) ∨ (legalWord w = false ∧ ∃ e, decode w = .error e)

/-- Rule R108's examples, each word written out. -/
def Obligations.WorkedEncodings : Prop :=
  encode (.rdreg 0x3F) = 0x1000003F ∧ encode (.wrreg 0x0D 0x5D) = 0x20005D0D ∧
  encode (.strobe 0x36 100) = 0x30006436 ∧ encode (.tx .dim50 3) = 0x40000301 ∧
  encode (.tx .off 50) = 0x40003200 ∧ encode .learn = 0x50000000 ∧ encode (.setaddr 0x12 0x34) = 0x60003412 ∧
  encode .init = 0x70000000 ∧
  decode 0x1000003F = .ok (.rdreg 0x3F) ∧ decode 0x20005D0D = .ok (.wrreg 0x0D 0x5D) ∧
  decode 0x30006436 = .ok (.strobe 0x36 100) ∧ decode 0x40000301 = .ok (.tx .dim50 3) ∧
  decode 0x40003200 = .ok (.tx .off 50) ∧ decode 0x50000000 = .ok .learn ∧
  decode 0x60003412 = .ok (.setaddr 0x12 0x34) ∧ decode 0x70000000 = .ok .init ∧ decode 0x00000000 = .ok .nop ∧
  decode 0x80000000 = .error .reservedOpcode ∧ decode 0x10000080 = .error .addressBit7 ∧
  decode 0x40000004 = .error .selectorBits

/-- The assembler refuses a number out of its operand's range and makes only legal words; the eight syntaxes have the
words of rule R107's table, with s(off) = 0, s(dim50) = 1, s(dim100) = 2 and s(pair) = 3. -/
def Obligations.AssemblerMakesLegalWords : Prop :=
  (∀ (p : Params) (l : AsmLine) (w : Word), asmWord p l = some w → l.inRange = true ∧ legalWord w = true) ∧
  (∀ p : Params, asmWord p .nop = some 0x00000000 ∧ asmWord p .learn = some 0x50000000 ∧
    asmWord p .init = some 0x70000000) ∧
  (∀ (p : Params) (a : Nat), asmWord p (.rdreg a) =
    if a ≤ 0x7F then some (0x10000000 ||| BitVec.ofNat 32 a) else none) ∧
  (∀ (p : Params) (a v : Nat), asmWord p (.wrreg a v) =
    if a ≤ 0x7F ∧ v ≤ 0xFF then some (0x20000000 ||| (BitVec.ofNat 32 v <<< 8) ||| BitVec.ofNat 32 a) else none) ∧
  (∀ (p : Params) (c t : Nat), asmWord p (.strobe c t) =
    if c ≤ 0xFF ∧ t ≤ 0xFFFF then some (0x30000000 ||| (BitVec.ofNat 32 t <<< 8) ||| BitVec.ofNat 32 c) else none) ∧
  (∀ (p : Params) (k : CommandCode) (sel : Word) (n : Nat),
    (k, sel) ∈ [(CommandCode.off, (0 : Word)), (.dim50, 1), (.dim100, 2), (.pair, 3)] → asmWord p (.tx k n) =
    if n ≤ 0xFF then some (0x40000000 ||| (BitVec.ofNat 32 n <<< 8) ||| sel) else none) ∧
  (∀ (p : Params) (a b : Nat), asmWord p (.setaddr a b) =
    if a ≤ 0xFF ∧ b ≤ 0xFF then some (0x60000000 ||| (BitVec.ofNat 32 b <<< 8) ||| BitVec.ofNat 32 a) else none)

/-- The pseudo-instructions expand as rule R250's table says, with 50, 10 or 1 repetitions where none is given, and a
strobe of a configured delay only where the delay fits 16 bits. -/
def Obligations.PseudoInstructionsExpand : Prop :=
  ∀ p : Params,
    asmCommand p (.turnoff none) = some (.tx .off 50) ∧ asmCommand p (.turnon50 none) = some (.tx .dim50 50) ∧
    asmCommand p (.turnon100 none) = some (.tx .dim100 50) ∧
    (∀ k, asmCommand p (.transmit k none) = some (.tx k 10) ∧ asmCommand p (.replay k) = some (.tx k 1)) ∧
    (∀ n : Nat, n ≤ 255 →
      asmCommand p (.turnoff (some n)) = some (.tx .off (BitVec.ofNat 8 n)) ∧
      asmCommand p (.turnon50 (some n)) = some (.tx .dim50 (BitVec.ofNat 8 n)) ∧
      asmCommand p (.turnon100 (some n)) = some (.tx .dim100 (BitVec.ofNat 8 n)) ∧
      (∀ k, asmCommand p (.transmit k (some n)) = some (.tx k (BitVec.ofNat 8 n))) ∧
      asmCommand p (.wrfifo n) = some (.wrreg p.fifoAddr (BitVec.ofNat 8 n))) ∧
    asmCommand p .rdfifo = some (.rdreg p.fifoAddr) ∧
    asmCommand p .srx = (if p.tRxWait ≤ 65535 then some (.strobe p.stbRx (BitVec.ofNat 16 p.tRxWait)) else none) ∧
    asmCommand p .stx = (if p.tTx ≤ 65535 then some (.strobe p.stbTx (BitVec.ofNat 16 p.tTx)) else none) ∧
    asmCommand p .sidle = (if p.tStrobe ≤ 65535 then some (.strobe p.stbIdle (BitVec.ofNat 16 p.tStrobe)) else none) ∧
    asmCommand p .sfrx = (if p.tStrobe ≤ 65535 then some (.strobe p.stbFrx (BitVec.ofNat 16 p.tStrobe)) else none) ∧
    asmCommand p .sftx = (if p.tStrobe ≤ 65535 then some (.strobe p.stbFtx (BitVec.ofNat 16 p.tStrobe)) else none) ∧
    asmCommand p .sres = (if p.tReset ≤ 65535 then some (.strobe p.stbReset (BitVec.ofNat 16 p.tReset)) else none)

/-- A step runs the decoded command: where the SEQ has the turn, RST is released, SEQ runs and OPL decodes to `i`, the
step is `exec i` (of the state with that turn taken off the list). -/
def Obligations.StepRunsDecodedCommand : Prop :=
  ∀ (s : State) (op : BitVec 4) (pos : Pos) (l : Locals) (i : Instr),
    s.env.rst = false → s.seq = .run op pos l → decode s.opl = .ok i →
    (s.env.turns = [] → step s = exec i s) ∧
    (∀ ts, s.env.turns = .seq :: ts → step s = exec i { s with env := { s.env with turns := ts } })

/-- The word a host has just written to CMD runs: from any state with no turn listed, the state with command `i`'s word
accepted (log entries 12, 13) runs `exec i` next, and that answers a next state. -/
def Obligations.AcceptedWordRunsNext : Prop :=
  ∀ (s : State) (i : Instr), s.env.turns = [] →
    step (s.withFetchWord 32 (encode i).toNat) = exec i (s.withFetchWord 32 (encode i).toNat) ∧
    ∃ t, exec i (s.withFetchWord 32 (encode i).toNat) = .next t

/-- An accepted illegal word finishes ILLEGAL as its only step, and writes nothing but DONE, BUSY and SEQ: no bus event,
no other register. -/
def Obligations.IllegalWordFinishesIllegal : Prop :=
  ∀ (s : State) (op : BitVec 4) (l : Locals) (e : IllegalWord),
    s.env.rst = false → s.seq = .run op .start l → decode s.opl = .error e →
    (s.env.turns = [] → step s = .next { s with done := .illegal, busy := false, seq := .idle }) ∧
    (∀ ts, s.env.turns = .seq :: ts → step s = .next { s with
      done := .illegal
      busy := false
      seq := .idle
      env := { s.env with turns := ts } })

/-- A write of CMD while BUSY = 0 is accepted, while BUSY = 1 is lost and sets OVERRUN; a read of CMD returns 0. The
locals of an operation that has only been accepted are left open (rule R36 writes `-`). -/
def Obligations.CmdAccess : Prop :=
  ∀ (s : State) (ts : List Turn) (w : Word), s.env.rst = false →
    (s.env.turns = .host (.write 0x00 4 w) :: ts → s.busy = false → ∃ l : Locals, step s = .next { s with
      opl := w
      done := .none
      busy := true
      seq := .run (w.extractLsb' 28 4) .start l
      env := { s.env with turns := ts } }) ∧
    (s.env.turns = .host (.write 0x00 4 w) :: ts → s.busy = true → step s = .next { s with
      overrun := true
      env := { s.env with turns := ts } }) ∧
    (s.env.turns = .host (.read 0x00 4) :: ts → step s = .next { s with
      env := { s.env with turns := ts, reads := s.env.reads ++ [0] } })

/-- Every word of the window: the fields of STATUS at their bits with rule R37's codes of DONE and LSTATE, the other
registers (rules R45, R46, R50, R51), and 0 for CMD and the reserved slot. -/
def Obligations.WindowWords : Prop :=
  ∀ s : State,
    s.readReg 0x00 = 0 ∧ s.readReg 0x1C = 0 ∧
    (s.readReg 0x04).extractLsb' 0 1 = BitVec.ofBool s.busy ∧
    (∀ c : BitVec 3, (s.done, c) ∈ [(Done.none, (0 : BitVec 3)), (.ok, 1), (.rejected, 2), (.illegal, 3), (.found, 4),
      (.exhausted, 5), (.notResponding, 6)] → (s.readReg 0x04).extractLsb' 1 3 = c) ∧
    (∀ c : BitVec 2, (s.lstate, c) ∈ [(LState.idle, (0 : BitVec 2)), (.listening, 1), (.found, 2), (.exhausted, 3)] →
      (s.readReg 0x04).extractLsb' 4 2 = c) ∧
    (s.readReg 0x04).extractLsb' 6 1 = BitVec.ofBool (decide (s.addr.b ++ s.addr.a ≠ 0#16)) ∧
    (s.readReg 0x04).extractLsb' 7 1 = BitVec.ofBool s.overrun ∧
    (s.readReg 0x04).extractLsb' 8 8 = s.attempts ∧
    (s.readReg 0x04).extractLsb' 16 8 = s.repsDone ∧
    (s.readReg 0x04).extractLsb' 24 8 = 0 ∧
    (s.readReg 0x08).extractLsb' 0 8 = s.rdata ∧ (s.readReg 0x08).extractLsb' 8 24 = 0 ∧
    (s.readReg 0x0C).extractLsb' 0 8 = s.addr.a ∧ (s.readReg 0x0C).extractLsb' 8 8 = s.addr.b ∧
    (s.readReg 0x0C).extractLsb' 16 16 = 0 ∧
    (∀ i (h : i < 4), (s.readReg 0x10).extractLsb' (8 * i) 8 = s.fb[i]) ∧
    (∀ i (h : i < 4), (s.readReg 0x14).extractLsb' (8 * i) 8 = s.fb[4 + i]) ∧
    (s.readReg 0x18).extractLsb' 0 8 = s.rxlen ∧ (s.readReg 0x18).extractLsb' 8 24 = 0

/-- A host read returns its register's word, 0 for the reserved slot, and does nothing else; a host write of a read-only
register or of the reserved slot does nothing. -/
def Obligations.ReadsAreSideEffectFreeAndOtherWritesIgnored : Prop :=
  ∀ (s : State) (ts : List Turn) (off : Nat), off % 4 = 0 → off < 32 →
    (s.env.turns = .host (.read off 4) :: ts → step s = .next { s with
      env := { s.env with turns := ts, reads := s.env.reads ++ [s.readReg off] } }) ∧
    s.readReg 0x1C = 0 ∧
    (∀ w, off ≠ 0x00 → s.env.turns = .host (.write off 4 w) :: ts →
      step s = .next { s with env := { s.env with turns := ts } })

/-- A host access of another width or at a misaligned offset is refused. -/
def Obligations.MisshapenAccessRefused : Prop :=
  ∀ (s : State) (ts : List Turn) (off width : Nat) (w : Word), (width ≠ 4 ∨ off % 4 ≠ 0) →
    (s.env.turns = .host (.read off width) :: ts → step s = .refused .hostAccessShape) ∧
    (s.env.turns = .host (.write off width w) :: ts → step s = .refused .hostAccessShape)

/-- The reset state holds rule R60's value of every piece of state, and reset has put nothing on the bus: that the
trace, a field of the model's own, is empty there is log entry 17. -/
def Obligations.ResetStateValues : Prop :=
  (∀ off, State.reset.readReg off = 0) ∧
  State.reset.busy = false ∧ State.reset.done = .none ∧ State.reset.lstate = .idle ∧
  State.reset.addrValid = false ∧ State.reset.overrun = false ∧ State.reset.attempts = 0 ∧ State.reset.repsDone = 0 ∧
  State.reset.fb = Vector.replicate 8 0 ∧ State.reset.seq = .idle ∧ State.reset.opl = 0 ∧
  State.reset.sel = .deasserted ∧ State.reset.wcnt = 0 ∧ State.reset.trace = []

/-- RST, asserted or released at any time, leaves every piece of state at its reset value, with DESEL on the bus where
SEL was asserted; and while it stays asserted every step leaves it so. That RST is an input of two levels, with a turn
for each change, is log entry 16. -/
def Obligations.RstResetsEverything : Prop :=
  (∀ (s : State) (on : Bool) (ts : List Turn), s.env.turns = .rst on :: ts →
    step s = .next (State.resetWith (if s.sel = .asserted then s.trace ++ [.desel] else s.trace)
      { s.env with turns := ts, rst := on })) ∧
  (∀ s t : State, s.env.rst = true → s = State.resetWith s.trace s.env → step s = .next t →
    t = State.resetWith s.trace t.env)

/-- Every command's last line completes it: the completion code is written, BUSY falls, SEQ is idle, and RDREG writes
RESULT in the same step. LEARN's last line is the EXHAUSTED one, NOP's only line is its first. That it is one step is
log entries 4 (NOP), 6 and 7. -/
def Obligations.FinishLineCompletes : Prop :=
  ∀ (s : State) (l : Locals),
    (s.seq = .run 0x0 .start l → exec .nop s = .next { s with done := .ok, busy := false, seq := .idle }) ∧
    (∀ a, s.seq = .run 0x1 .finish l →
      exec (.rdreg a) s = .next { s with rdata := l.v, done := .ok, busy := false, seq := .idle }) ∧
    (∀ a v, s.seq = .run 0x2 .finish l →
      exec (.wrreg a v) s = .next { s with done := .ok, busy := false, seq := .idle }) ∧
    (∀ c t, s.seq = .run 0x3 .finish l →
      exec (.strobe c t) s = .next { s with done := .ok, busy := false, seq := .idle }) ∧
    (∀ k n, s.seq = .run 0x4 .finish l →
      exec (.tx k n) s = .next { s with done := .ok, busy := false, seq := .idle }) ∧
    (s.seq = .run 0x5 .finish l →
      exec .learn s = .next { s with done := .exhausted, busy := false, seq := .idle }) ∧
    (∀ a b, s.seq = .run 0x6 .finish l →
      exec (.setaddr a b) s = .next { s with done := .ok, busy := false, seq := .idle }) ∧
    (s.seq = .run 0x7 .finish l → exec .init s = .next { s with done := .ok, busy := false, seq := .idle })

/-- NOP: its only line, in one step (log entry 4): OK, no bus event and no other register. -/
def Obligations.NopCompletes : Prop :=
  ∀ (s : State) (l : Locals), s.seq = .run 0x0 .start l →
    exec .nop s = .next { s with done := .ok, busy := false, seq := .idle }

/-- RDREG from its first line, with `m` asserted readiness samples before the deasserted one and no bound reached: its
trace is that of rule R140, RESULT is the byte received with the payload, DONE is OK and no other register changes. That
WCNT keeps the number of samples is log entry 5. -/
def Obligations.RdregCompletes : Prop :=
  ∀ (a : RegAddr) (s : State) (l : Locals) (m : Nat) (bs : List Level) (i0 v : Byte) (rs : List Byte),
    s.seq = .run 0x1 .start l → s.env.brl = List.replicate m Level.asserted ++ Level.deasserted :: bs →
    s.env.rx = i0 :: v :: rs → (∀ n, sbfcParams.readyTimeout = some n → m < n) →
    (∃ t, exec (.rdreg a) s = .next t) ∧
    ∃ k, runInstr (.rdreg a) k s = .next { s with
      rdata := v
      done := .ok
      busy := false
      seq := .idle
      sel := .deasserted
      wcnt := m + 1
      trace := s.trace ++ [.wait (m + 1), .sel, .x (a.setWidth 8 ||| 0x80) i0, .gap sbfcParams.tByte, .x 0x00 v,
        .desel, .dly sbfcParams.tPost]
      env := { s.env with brl := bs, rx := rs } }

/-- RESULT is written only by RDREG's finish step, with the value zero-extended. -/
def Obligations.OnlyRdregFinishWritesResult : Prop :=
  (∀ (a : RegAddr) (s : State) (l : Locals), s.seq = .run 0x1 .finish l →
    ∃ t, exec (.rdreg a) s = .next t ∧ t.resultWord = l.v.setWidth 32 ∧ t.busy = false) ∧
  (∀ (i : Instr) (s t : State), exec i s = .next t → t.resultWord ≠ s.resultWord →
    ∃ a l, i = .rdreg a ∧ s.seq = .run 0x1 .finish l)

/-- WRREG from its first line: the trace of rule R145, OK, and no other register changes. That WCNT keeps the number of
samples is log entry 5. -/
def Obligations.WrregCompletes : Prop :=
  ∀ (a : RegAddr) (v : Byte) (s : State) (l : Locals) (m : Nat) (bs : List Level) (i0 i1 : Byte) (rs : List Byte),
    s.seq = .run 0x2 .start l → s.env.brl = List.replicate m Level.asserted ++ Level.deasserted :: bs →
    s.env.rx = i0 :: i1 :: rs → (∀ n, sbfcParams.readyTimeout = some n → m < n) →
    (∃ t, exec (.wrreg a v) s = .next t) ∧
    ∃ k, runInstr (.wrreg a v) k s = .next { s with
      done := .ok
      busy := false
      seq := .idle
      sel := .deasserted
      wcnt := m + 1
      trace := s.trace ++ [.wait (m + 1), .sel, .x (a.setWidth 8) i0, .gap sbfcParams.tByte, .x v i1, .desel,
        .dly sbfcParams.tPost]
      env := { s.env with brl := bs, rx := rs } }

/-- STROBE from its first line: the trace of rule R150 with the operand's settle time, OK, and no other register
changes. That WCNT keeps the number of samples is log entry 5. -/
def Obligations.StrobeCompletes : Prop :=
  ∀ (c : Byte) (t : BitVec 16) (s : State) (l : Locals) (m : Nat) (bs : List Level) (i0 : Byte) (rs : List Byte),
    s.seq = .run 0x3 .start l → s.env.brl = List.replicate m Level.asserted ++ Level.deasserted :: bs →
    s.env.rx = i0 :: rs → (∀ n, sbfcParams.readyTimeout = some n → m < n) →
    (∃ u, exec (.strobe c t) s = .next u) ∧
    ∃ k, runInstr (.strobe c t) k s = .next { s with
      done := .ok
      busy := false
      seq := .idle
      sel := .deasserted
      wcnt := m + 1
      trace := s.trace ++ [.wait (m + 1), .sel, .x c i0, .desel, .dly t.toNat]
      env := { s.env with brl := bs, rx := rs } }

/-- TX with no address and SETADDR with the sentinel finish REJECTED, with no bus event and no register written but
DONE, BUSY (and SEQ). -/
def Obligations.RejectedWritesNothingElse : Prop :=
  ∀ (s : State) (l : Locals),
    (∀ k n, s.seq = .run 0x4 .start l → s.addrValid = false →
      ∃ j, runInstr (.tx k n) j s = .next { s with done := .rejected, busy := false, seq := .idle }) ∧
    (s.seq = .run 0x6 .start l →
      ∃ j, runInstr (.setaddr 0 0) j s = .next { s with done := .rejected, busy := false, seq := .idle })

/-- TX with a repetition count of 0 and a known address: REPS_DONE is 0, no bus event, OK. -/
def Obligations.TxZeroRepetitions : Prop :=
  ∀ (k : CommandCode) (s : State) (l : Locals), s.seq = .run 0x4 .start l → s.addrValid = true →
    decode (encode (.tx k 0)) = .ok (.tx k 0) ∧
    ∃ j, runInstr (.tx k 0) j s = .next { s with repsDone := 0, done := .ok, busy := false, seq := .idle }

/-- One repetition of TX (rule R217; WCNT and the step count: log entries 4, 5): four transactions with `m1` to `m4`
asserted samples before their deasserted one, the frame of rule R113 in the burst with the wire byte 0x01, 0x02, 0x03 or
0xFF of OFF, DIM_50, DIM_100 or PAIR, then REPS_DONE <- rep and on to the next repetition or to the finish line. -/
def Obligations.TxRepetitionTrace : Prop :=
  ∀ (k : CommandCode) (w n : Byte) (s : State) (l : Locals) (m1 m2 m3 m4 : Nat) (bs : List Level)
    (i1 i2 i4 h : Byte) (is rs : List Byte),
    (k, w) ∈ [(CommandCode.off, (0x01 : Byte)), (.dim50, 0x02), (.dim100, 0x03), (.pair, 0xFF)] →
    s.seq = .run 0x4 (.bus .txIdle .clear) l → is.length = 8 →
    s.env.brl = List.replicate m1 Level.asserted ++ Level.deasserted ::
      (List.replicate m2 Level.asserted ++ Level.deasserted ::
      (List.replicate m3 Level.asserted ++ Level.deasserted ::
      (List.replicate m4 Level.asserted ++ Level.deasserted :: bs))) →
    s.env.rx = i1 :: i2 :: h :: (is ++ i4 :: rs) →
    (∀ b, sbfcParams.readyTimeout = some b → m1 < b ∧ m2 < b ∧ m3 < b ∧ m4 < b) →
    (∃ t, exec (.tx k n) s = .next t) ∧
    runInstr (.tx k n) (m1 + m2 + m3 + m4 + 41) s = .next { s with
      repsDone := BitVec.ofNat 8 l.rep
      sel := .deasserted
      wcnt := m4 + 1
      seq := if l.rep < n.toNat then .run 0x4 (.bus .txIdle .clear) { l with rep := l.rep + 1 } else .run 0x4 .finish l
      trace := s.trace ++
        [.wait (m1 + 1), .sel, .x sbfcParams.stbIdle i1, .desel, .dly sbfcParams.tStrobe] ++
        [.wait (m2 + 1), .sel, .x sbfcParams.stbFtx i2, .desel, .dly sbfcParams.tStrobe] ++
        ([.wait (m3 + 1), .sel, .x sbfcParams.burstMarker h] ++
          ([sbfcParams.txLenByte, 0x55, 0x01, s.addr.a, s.addr.b, w, 0xAA, 0xFF].zip is).flatMap
            (fun oi => [.gap sbfcParams.tByte, .x oi.1 oi.2]) ++ [.desel, .dly sbfcParams.tPost]) ++
        [.wait (m4 + 1), .sel, .x sbfcParams.stbTx i4, .desel, .dly sbfcParams.tTx]
      env := { s.env with brl := bs, rx := rs } }

/-- A whole TX of `n` repetitions, with `ws` asserted samples before the deasserted one of each wait (WCNT and the step
count: log entries 4, 5): exactly `n` identical frames, with the command's wire byte `w`, are sent in 4n transactions
and 12n exchanges that take at least 263n microseconds, REPS_DONE is n, the code is OK, and no other register changes.
-/
def Obligations.TxSendsIdenticalFrames : Prop :=
  ∀ (k : CommandCode) (w n : Byte) (s : State) (l : Locals) (ws : List Nat) (bs : List Level) (is rs : List Byte),
    (k, w) ∈ [(CommandCode.off, (0x01 : Byte)), (.dim50, 0x02), (.dim100, 0x03), (.pair, 0xFF)] →
    s.seq = .run 0x4 .start l → s.addrValid = true → is.length = 12 * n.toNat → ws.length = 4 * n.toNat →
    s.env.brl = waitDraws ws ++ bs → s.env.rx = is ++ rs → waitsAllowed sbfcParams ws →
    (∃ t, exec (.tx k n) s = .next t) ∧
    ∃ es : List Event, runInstr (.tx k n) (41 * n.toNat + 4 + ws.sum) s = .next { s with
        repsDone := n
        done := .ok
        busy := false
        seq := .idle
        sel := if n = 0 then s.sel else .deasserted
        wcnt := wcntAfter ws s.wcnt
        trace := s.trace ++ es
        env := { s.env with brl := bs, rx := rs } } ∧
      sentBytes es = (List.replicate n.toNat [sbfcParams.stbIdle, sbfcParams.stbFtx, sbfcParams.burstMarker,
        sbfcParams.txLenByte, 0x55, 0x01, s.addr.a, s.addr.b, w, 0xAA, 0xFF, sbfcParams.stbTx]).flatten ∧
      transactions es = 4 * n.toNat ∧ 263 * n.toNat ≤ minTime es

/-- SETADDR with a pair other than the sentinel: the pair is written in one step, the code is OK, ADDR reads
`{0x0000, b, a}` and ADDR_VALID reads 1; nothing else changes and there is no bus event. -/
def Obligations.SetaddrStoresPair : Prop :=
  ∀ (a b : Byte) (s : State) (l : Locals), ¬ (a = 0 ∧ b = 0) →
    (s.seq = .run 0x6 .setup l →
      exec (.setaddr a b) s = .next { s with addr := { a := a, b := b }, seq := .run 0x6 .finish l }) ∧
    (s.seq = .run 0x6 .start l → ∃ j t, runInstr (.setaddr a b) j s = .next t ∧
      t = { s with addr := { a := a, b := b }, done := .ok, busy := false, seq := .idle } ∧
      t.readReg 0x0C = (0 : BitVec 16) ++ b ++ a ∧ (t.readReg 0x04).extractLsb' 6 1 = 1)

/-- SETADDR with `(0,0)` finishes REJECTED and leaves ADDR as it was. -/
def Obligations.SetaddrSentinelLeavesAddr : Prop :=
  ∀ (s : State) (l : Locals), s.seq = .run 0x6 .start l →
    (∃ t, exec (.setaddr 0 0) s = .next t) ∧
    ∃ j t, runInstr (.setaddr 0 0) j s = .next t ∧ t.done = .rejected ∧ t.busy = false ∧ t.addr = s.addr ∧
      t.trace = s.trace

/-- INIT, with `m0` asserted samples before the deasserted one of the reset strobe's wait and `ws` of the waits of the
writes (WCNT and the step count: log entries 4, 5): the reset strobe with its settle delay P_T_RESET, then one register
write per entry of the table in its order, with its gap and its delay, no readback; OK, and no other register changes.
`is` are the bytes received with each write. -/
def Obligations.InitWritesTheTable : Prop :=
  ∀ (s : State) (l : Locals) (m0 : Nat) (ws : List Nat) (bs : List Level) (i0 : Byte) (is : List (Byte × Byte))
    (rs : List Byte),
    s.seq = .run 0x7 .start l → ws.length = sbfcParams.configTable.length → is.length = sbfcParams.configTable.length →
    s.env.brl = waitDraws (m0 :: ws) ++ bs → s.env.rx = i0 :: (is.flatMap (fun i => [i.1, i.2]) ++ rs) →
    waitsAllowed sbfcParams (m0 :: ws) →
    (∃ t, exec .init s = .next t) ∧
    runInstr .init (9 * sbfcParams.configTable.length + 8 + (m0 :: ws).sum) s = .next { s with
      done := .ok
      busy := false
      seq := .idle
      sel := .deasserted
      wcnt := wcntAfter (m0 :: ws) s.wcnt
      trace := s.trace ++
        [.wait (m0 + 1), .sel, .x sbfcParams.stbReset i0, .desel, .dly sbfcParams.tReset] ++
        (sbfcParams.configTable.zip (ws.zip is)).flatMap (fun e =>
          [.wait (e.2.1 + 1), .sel, .x (e.1.1.setWidth 8) e.2.2.1, .gap sbfcParams.tByte, .x e.1.2 e.2.2.2, .desel,
            .dly sbfcParams.tPost])
      env := { s.env with brl := bs, rx := rs } }

/-- LEARN with an address already known finishes OK after its first two lines, with no bus event and nothing written
but DONE and BUSY (and SEQ). -/
def Obligations.LearnWithKnownAddressDoesNothing : Prop :=
  ∀ (s : State) (l : Locals), s.seq = .run 0x5 .start l → s.addrValid = true →
    (∃ t, exec .learn s = .next t) ∧
    runInstr .learn 2 s = .next { s with done := .ok, busy := false, seq := .idle }

/-- LEARN with no address: LISTENING and ATTEMPTS = 0 are set in one step, before any bus event. That the head of the
loop, which sets `att` to 1, is performed in that step and is no step of its own is log entry 4. -/
def Obligations.LearnStartsListening : Prop :=
  ∀ (s : State) (l : Locals), s.addrValid = false →
    (s.seq = .run 0x5 .setup l → exec .learn s = .next { s with
      lstate := .listening
      attempts := 0
      seq := .run 0x5 .attempt { l with att := 1 } }) ∧
    (s.seq = .run 0x5 .start l → ∃ k, runInstr .learn k s = .next { s with
      lstate := .listening
      attempts := 0
      seq := .run 0x5 .attempt { l with att := 1 } })

/-- A receive attempt whose reported length is at most 1 or at least 9, with `m1` to `m4` asserted samples before the
deasserted one of each wait: ATTEMPTS and RXLEN are written, FB is all 0, no FIFO read and no parse happen, and step 6
follows at once. What WCNT and the locals `v` and `m` hold at the end is log entries 5 and 9. -/
def Obligations.AttemptWithoutFrame : Prop :=
  ∀ (s : State) (l : Locals) (m1 m2 m3 m4 : Nat) (bs : List Level) (i1 i2 len i3 i4 : Byte) (rs : List Byte),
    s.seq = .run 0x5 .attempt l → (len.toNat ≤ 1 ∨ 8 < len.toNat) →
    s.env.brl = List.replicate m1 Level.asserted ++ Level.deasserted ::
      (List.replicate m2 Level.asserted ++ Level.deasserted ::
      (List.replicate m3 Level.asserted ++ Level.deasserted ::
      (List.replicate m4 Level.asserted ++ Level.deasserted :: bs))) →
    s.env.rx = i1 :: i2 :: len :: i3 :: i4 :: rs →
    (∀ b, sbfcParams.readyTimeout = some b → m1 < b ∧ m2 < b ∧ m3 < b ∧ m4 < b) →
    (∃ t, exec .learn s = .next t) ∧
    ∃ k, runInstr .learn k s = .next { s with
      attempts := BitVec.ofNat 8 l.att
      fb := Vector.replicate 8 0
      rxlen := len
      sel := .deasserted
      wcnt := m4 + 1
      seq := .run 0x5 .checkMatch { l with m := false, v := len, len := len }
      trace := s.trace ++
        [.wait (m1 + 1), .sel, .x sbfcParams.stbRx i1, .desel, .dly sbfcParams.tRxWait] ++
        [.wait (m2 + 1), .sel, .x (sbfcParams.rxlenAddr.setWidth 8 ||| 0x80) i2, .gap sbfcParams.tByte, .x 0x00 len,
          .desel, .dly sbfcParams.tPost] ++
        [.wait (m3 + 1), .sel, .x sbfcParams.stbIdle i3, .desel, .dly sbfcParams.tStrobe] ++
        [.wait (m4 + 1), .sel, .x sbfcParams.stbFrx i4, .desel, .dly sbfcParams.tStrobe]
      env := { s.env with brl := bs, rx := rs } }

/-- A receive attempt that reads a frame `f` of 2 to 8 bytes, with `ws` asserted samples before the deasserted one of
each wait (WCNT, the locals and the step count: log entries 4, 5, 9): exactly `len` FIFO reads, FB holds the frame and
0 above it, and ADDR and LSTATE change exactly when the frame parses; step 6 follows either way. `hs` are the bytes
received with the headers of the FIFO reads. -/
def Obligations.AttemptReadsAndParsesFrame : Prop :=
  ∀ (s : State) (l : Locals) (ws : List Nat) (bs : List Level) (i1 i2 i3 i4 : Byte) (f hs rs : List Byte),
    s.seq = .run 0x5 .attempt l → 2 ≤ f.length → f.length ≤ 8 → hs.length = f.length → ws.length = 4 + f.length →
    s.env.brl = waitDraws ws ++ bs →
    s.env.rx = i1 :: i2 :: BitVec.ofNat 8 f.length ::
      ((hs.zip f).flatMap (fun x => [x.1, x.2]) ++ i3 :: i4 :: rs) →
    waitsAllowed sbfcParams ws →
    (∃ t, exec .learn s = .next t) ∧
    ∃ (t : State) (l' : Locals) (es : List Event),
      runInstr .learn (9 * f.length + (if (parse f).isSome then 33 else 32) + ws.sum) s = .next t ∧
      t = { s with
        attempts := BitVec.ofNat 8 l.att
        fb := t.fb
        rxlen := BitVec.ofNat 8 f.length
        addr := (parse f).getD s.addr
        lstate := if (parse f).isSome then .found else s.lstate
        sel := .deasserted
        wcnt := wcntAfter ws s.wcnt
        seq := .run 0x5 .checkMatch l'
        trace := s.trace ++ es
        env := { s.env with brl := bs, rx := rs } } ∧
      t.fb.toList = f ++ List.replicate (8 - f.length) 0 ∧ l'.m = (parse f).isSome ∧ l'.att = l.att ∧
      sentBytes es = sbfcParams.stbRx :: (sbfcParams.rxlenAddr.setWidth 8 ||| 0x80) :: 0x00 ::
        ((List.replicate f.length [sbfcParams.fifoAddr.setWidth 8 ||| 0x80, 0x00]).flatten ++
          [sbfcParams.stbIdle, sbfcParams.stbFrx]) ∧
      transactions es = 4 + f.length

/-- The end of an attempt: after a match LEARN finishes FOUND and makes no further attempt; without one it goes to the
next attempt while the budget lasts, else it sets EXHAUSTED and finishes, ADDR untouched. That the head of the loop is
no step of its own, so that the next attempt is one step away and the finish three, is log entry 4. -/
def Obligations.LearnOutcomes : Prop :=
  ∀ (s : State) (l : Locals),
    (s.seq = .run 0x5 .checkMatch l → l.m = true →
      exec .learn s = .next { s with done := .found, busy := false, seq := .idle }) ∧
    (s.seq = .run 0x5 .checkMatch l → l.m = false → l.att < sbfcParams.learnMaxAttempts →
      exec .learn s = .next { s with seq := .run 0x5 .attempt { l with att := l.att + 1 } }) ∧
    (s.seq = .run 0x5 .checkMatch l → l.m = false → ¬ l.att < sbfcParams.learnMaxAttempts →
      runInstr .learn 3 s = .next { s with
        lstate := .exhausted
        done := .exhausted
        busy := false
        seq := .idle })

/-- A whole LEARN with no address, every reported length at most 1 or at least 9, with `ws` asserted samples before the
deasserted one of each wait (WCNT and the step count: log entries 4, 5): exactly P_LEARN_MAX_ATTEMPTS attempts of four
transactions, EXHAUSTED, ATTEMPTS the maximum, ADDR untouched, FB all 0, RXLEN the last reported length. `xs` lists, per
attempt, the byte received with each exchange (the third is the reported length). -/
def Obligations.LearnExhaustsAfterAllAttempts : Prop :=
  ∀ (s : State) (l : Locals) (ws : List Nat) (bs : List Level) (rs : List Byte)
    (xs : List (Byte × Byte × Byte × Byte × Byte)) (last : Byte × Byte × Byte × Byte × Byte),
    s.seq = .run 0x5 .start l → s.addrValid = false → xs.length = sbfcParams.learnMaxAttempts →
    xs.getLast? = some last → (∀ x ∈ xs, x.2.2.1.toNat ≤ 1 ∨ 8 < x.2.2.1.toNat) →
    ws.length = 4 * sbfcParams.learnMaxAttempts → s.env.brl = waitDraws ws ++ bs →
    s.env.rx = xs.flatMap (fun x => [x.1, x.2.1, x.2.2.1, x.2.2.2.1, x.2.2.2.2]) ++ rs → waitsAllowed sbfcParams ws →
    (∃ t, exec .learn s = .next t) ∧
    ∃ es : List Event,
      runInstr .learn (32 * sbfcParams.learnMaxAttempts + 5 + ws.sum) s = .next { s with
        lstate := .exhausted
        attempts := BitVec.ofNat 8 sbfcParams.learnMaxAttempts
        fb := Vector.replicate 8 0
        rxlen := last.2.2.1
        done := .exhausted
        busy := false
        seq := .idle
        sel := .deasserted
        wcnt := wcntAfter ws s.wcnt
        trace := s.trace ++ es
        env := { s.env with brl := bs, rx := rs } } ∧
      transactions es = 4 * sbfcParams.learnMaxAttempts

/-- The meanings are those of the modelled instance's parameters; and under a bound of N samples, a wait whose N-th
sample is asserted aborts its command: NOT_RESPONDING, no event, every earlier write kept; LEARN's LSTATE becomes FOUND
or IDLE as a match was committed or not. That all of it is the step of the N-th sample is log entry 8. -/
def Obligations.TimedOutWaitAborts : Prop :=
  (∀ (i : Instr) (s : State), exec i s = commandStep sbfcParams i s) ∧
  (∀ (p : Params) (i : Instr) (t : Txn) (l : Locals) (x : Xfer) (s : State) (bs : List Level),
    xferOf p s.addr l i t = some x → s.seq = .run (opcode i) (.bus t .sample) l → s.env.brl = .asserted :: bs →
    p.readyTimeout = some (s.wcnt + 1) →
    commandStep p i s = .next { s with
      wcnt := s.wcnt + 1
      lstate := if i = .learn then (if s.lstate = .found then .found else .idle) else s.lstate
      done := .notResponding
      busy := false
      seq := .idle
      env := { s.env with brl := bs } })

/-- Without a bound (P_READY_TIMEOUT = NONE) a wait goes on through any number of asserted samples: only WCNT and the
draws change, BUSY stays, SEL stays, no event is made. -/
def Obligations.EndlessWaitWithoutTimeout : Prop :=
  ∀ (p : Params) (i : Instr) (t : Txn) (l : Locals) (x : Xfer) (s : State) (m : Nat) (bs : List Level),
    p.readyTimeout = none → xferOf p s.addr l i t = some x → s.seq = .run (opcode i) (.bus t .sample) l →
    s.env.brl = List.replicate m Level.asserted ++ bs →
    runFn (commandStep p i) m s = .next { s with wcnt := s.wcnt + m, env := { s.env with brl := bs } }

/-- What each command's steps may write: OPL, OVERRUN, the turns, RST and the host's reads never; RESULT only RDREG;
REPS_DONE only TX; LSTATE, ATTEMPTS, RXLEN and FB (so the window's RXBUF0, RXBUF1, RXLEN words) only LEARN; ADDR only
SETADDR and LEARN; and a step appends at most one bus event. -/
def Obligations.CommandStepFrame : Prop :=
  ∀ (i : Instr) (s t : State), exec i s = .next t →
    t.opl = s.opl ∧ t.overrun = s.overrun ∧ t.env.turns = s.env.turns ∧ t.env.rst = s.env.rst ∧
    t.env.reads = s.env.reads ∧
    ((∀ a, i ≠ .rdreg a) → t.rdata = s.rdata ∧ t.readReg 0x08 = s.readReg 0x08) ∧
    ((∀ k n, i ≠ .tx k n) → t.repsDone = s.repsDone) ∧
    (i ≠ .learn → t.lstate = s.lstate ∧ t.attempts = s.attempts ∧ t.rxlen = s.rxlen ∧ t.fb = s.fb ∧
      ∀ off, 0x10 ≤ off → t.readReg off = s.readReg off) ∧
    (i ≠ .learn → (∀ a b, i ≠ .setaddr a b) → t.addr = s.addr ∧ t.readReg 0x0C = s.readReg 0x0C) ∧
    ∃ es : List Event, t.trace = s.trace ++ es ∧ es.length ≤ 1

/-- Besides reset, ADDR is written by exactly two things: SETADDR's write line, with its operand, which in every state
that meets the invariant is not the sentinel, and LEARN's parse step, with the parsed pair. -/
def Obligations.AddrHasTwoWriters : Prop :=
  ∀ s t : State, step s = .next t → t.addr ≠ s.addr →
    (∃ on ts, s.env.turns = .rst on :: ts) ∨
    (∃ a b l, decode s.opl = .ok (.setaddr a b) ∧ s.seq = .run 0x6 .setup l ∧ t.addr = { a := a, b := b } ∧
      (s.Inv → ¬ (a = 0 ∧ b = 0))) ∨
    (∃ l, decode s.opl = .ok .learn ∧ s.seq = .run 0x5 .parse l ∧ parse (s.frame l.len.toNat) = some t.addr ∧
      ¬ (t.addr.a = 0 ∧ t.addr.b = 0))

/-- ADDR_VALID reads 1 exactly where ADDR holds a pair other than the sentinel, and, once 1, stays 1 until RST, in every
state that meets the invariant. -/
def Obligations.AddrValidUntilReset : Prop :=
  (∀ s : State, (s.readReg 0x04).extractLsb' 6 1 = (if s.addr.b ++ s.addr.a = (0 : BitVec 16) then 0 else 1)) ∧
  ∀ s t : State, s.Inv → (s.readReg 0x04).extractLsb' 6 1 = 1 → step s = .next t →
    (∀ on ts, s.env.turns ≠ .rst on :: ts) → (t.readReg 0x04).extractLsb' 6 1 = 1

/-- OVERRUN is set by a refused CMD write and by nothing else, and cleared only by reset. -/
def Obligations.OverrunSticky : Prop :=
  ∀ s t : State, step s = .next t →
    (s.overrun = true → t.overrun = false → ∃ on ts, s.env.turns = .rst on :: ts) ∧
    (s.overrun = false → t.overrun = true → s.busy = true ∧ ∃ w ts, s.env.turns = .host (.write 0x00 4 w) :: ts) ∧
    (∀ w ts, s.env.turns = .host (.write 0x00 4 w) :: ts → s.busy = true → s.env.rst = false → t.overrun = true)

/-- A host access while a command runs does not disturb it: the command's next step is the same step, and only OVERRUN
and the host's own reads carry the access's trace. -/
def Obligations.HostAccessDoesNotDisturbCommand : Prop :=
  ∀ (i : Instr) (a : HostAccess) (s t : State), s.busy = true → exec i s = .next t →
    exec i (s.access a) = .next { t with
      overrun := (s.access a).overrun
      env := { t.env with reads := (s.access a).env.reads } }

/-- The parser takes the first offset whose marks match inside the frame and whose pair is not the sentinel, and finds
none where there is no such offset (rule R177). -/
def Obligations.ParserTakesFirstMatch : Prop :=
  let hit (f : List Byte) (k : Nat) (r : FixtureAddress) : Prop :=
    k + 6 ≤ f.length ∧ f[k]? = some 0x55 ∧ f[k + 1]? = some 0x01 ∧ f[k + 2]? = some r.a ∧ f[k + 3]? = some r.b ∧
      f[k + 5]? = some 0xAA ∧ ¬ (r.a = 0 ∧ r.b = 0)
  ∀ f : List Byte,
    (∀ r, parse f = some r ↔ ∃ k, hit f k r ∧ ∀ j r', j < k → ¬ hit f j r') ∧
    (parse f = none ↔ ∀ k r, ¬ hit f k r)

/-- Rule R187's worked examples. -/
def Obligations.ParserWorkedExamples : Prop :=
  parse [0x55, 0x01, 0x2A, 0x7F, 0xCC, 0xAA, 0xFF] = some { a := 0x2A, b := 0x7F } ∧
  parse [0x13, 0x55, 0x01, 0x2A, 0x7F, 0xCC, 0xAA, 0xFF] = some { a := 0x2A, b := 0x7F } ∧
  parse [0x55, 0x55, 0x01, 0x2A, 0x7F, 0xCC, 0xAA, 0xFF] = some { a := 0x2A, b := 0x7F } ∧
  parse [0x11, 0x22, 0x33, 0x44, 0x66, 0x77, 0x88, 0x99] = none ∧
  parse [0x55, 0x01, 0x2A, 0x7F, 0xCC] = none ∧
  parse [0x55, 0x01, 0x00, 0x00, 0x02, 0xAA] = none ∧
  parse [0x55, 0x02, 0x2A, 0x7F, 0x02, 0xAA] = none ∧
  parse [0x55, 0x01, 0x2A, 0x7F, 0x02, 0xAB] = none ∧
  parse [0x00, 0x00, 0x55, 0x01, 0x2A, 0x7F, 0xCC, 0xAA] = some { a := 0x2A, b := 0x7F }

/-- The payload of TX's burst write, with the wire byte 0x01, 0x02, 0x03 or 0xFF of OFF, DIM_50, DIM_100 or PAIR, and
that what is sent from the sync byte to the trailer parses back to the address it was sent to. -/
def Obligations.TransmittedFrameParsesBack : Prop :=
  ∀ (p : Params) (a b : Byte) (k : CommandCode) (w : Byte) (rest : List Byte), ¬ (a = 0 ∧ b = 0) →
    (k, w) ∈ [(CommandCode.off, (0x01 : Byte)), (.dim50, 0x02), (.dim100, 0x03), (.pair, 0xFF)] →
    txPayload p a b k = [p.txLenByte, 0x55, 0x01, a, b, w, 0xAA, 0xFF] ∧
    ((txPayload p a b k).drop 1).take 6 = [0x55, 0x01, a, b, w, 0xAA] ∧
    parse (((txPayload p a b k).drop 1).take 6 ++ rest) = some { a := a, b := b }

/-- The minimum durations of rule R305, of the events that the commands themselves append under every legal
configuration, with `ws` asserted samples before the deasserted one of each wait: a whole RDREG, WRREG and STROBE, one
repetition of TX, a learning attempt without a frame and one with a frame `f` of 2 to 8 bytes. -/
def Obligations.MinimumDurations : Prop :=
  ∀ (p : Params) (s : State) (l : Locals) (ws : List Nat) (bs : List Level) (is rs : List Byte),
    p.legal = true → waitsAllowed p ws → s.env.brl = waitDraws ws ++ bs → s.env.rx = is ++ rs →
    (∀ a, s.seq = .run 0x1 .start l → ws.length = 1 → is.length = 2 →
      ∃ k t es, runFn (commandStep p (.rdreg a)) k s = .next t ∧ t.done = .ok ∧ t.seq = .idle ∧
        t.trace = s.trace ++ es ∧ minTime es = p.tByte + p.tPost) ∧
    (∀ a v, s.seq = .run 0x2 .start l → ws.length = 1 → is.length = 2 →
      ∃ k t es, runFn (commandStep p (.wrreg a v)) k s = .next t ∧ t.done = .ok ∧ t.seq = .idle ∧
        t.trace = s.trace ++ es ∧ minTime es = p.tByte + p.tPost) ∧
    (∀ c d, s.seq = .run 0x3 .start l → ws.length = 1 → is.length = 1 →
      ∃ k t es, runFn (commandStep p (.strobe c d)) k s = .next t ∧ t.done = .ok ∧ t.seq = .idle ∧
        t.trace = s.trace ++ es ∧ minTime es = d.toNat) ∧
    (∀ c n, s.seq = .run 0x4 (.bus .txIdle .clear) l → ws.length = 4 → is.length = 12 →
      ∃ k t es, runFn (commandStep p (.tx c n)) k s = .next t ∧ t.repsDone = BitVec.ofNat 8 l.rep ∧
        t.seq = (if l.rep < n.toNat then .run 0x4 (.bus .txIdle .clear) { l with rep := l.rep + 1 }
          else .run 0x4 .finish l) ∧
        t.trace = s.trace ++ es ∧ minTime es = 2 * p.tStrobe + 8 * p.tByte + p.tPost + p.tTx ∧ 263 ≤ minTime es) ∧
    (∀ i1 i2 len i3 i4, s.seq = .run 0x5 .attempt l → ws.length = 4 → is = [i1, i2, len, i3, i4] →
      (len.toNat ≤ 1 ∨ 8 < len.toNat) →
      ∃ k t l' es, runFn (commandStep p .learn) k s = .next t ∧ t.seq = .run 0x5 .checkMatch l' ∧
        t.trace = s.trace ++ es ∧ minTime es = p.tRxWait + (p.tByte + p.tPost) + 2 * p.tStrobe) ∧
    (∀ i1 i2 i3 i4 (f hs : List Byte), s.seq = .run 0x5 .attempt l → 2 ≤ f.length → f.length ≤ 8 →
      hs.length = f.length → ws.length = 4 + f.length →
      is = i1 :: i2 :: BitVec.ofNat 8 f.length :: ((hs.zip f).flatMap (fun x => [x.1, x.2]) ++ [i3, i4]) →
      ∃ k t l' es, runFn (commandStep p .learn) k s = .next t ∧ t.seq = .run 0x5 .checkMatch l' ∧
        t.trace = s.trace ++ es ∧
        minTime es = p.tRxWait + (p.tByte + p.tPost) + 2 * p.tStrobe + f.length * (p.tByte + p.tPost))

/-- The invariant holds at reset, whatever turns and draws are to come. -/
def Obligations.InvHoldsAtReset : Prop :=
  State.reset.Inv ∧ ∀ e : Env, (State.resetWith [] e).Inv

/-- Every step keeps the invariant (rules R33, R39, R43, R54, R55, R290, C9). -/
def Obligations.StepKeepsInv : Prop :=
  ∀ s t : State, s.Inv → step s = .next t → t.Inv

/-- From a state that meets the invariant no step faults, and the only refusals are those of host accesses. -/
def Obligations.InvNeverFaults : Prop :=
  ∀ s : State, s.Inv → (∀ f, step s ≠ .fault f) ∧
    (∀ r, step s = .refused r → ∃ a ts, s.env.turns = .host a :: ts ∧ ¬ (a.aligned = true ∧ a.inWindow = true))

/-- Every command completes its step: in a state that meets the invariant, with OPL decoding to `i` and SEQ running,
`exec i` answers a next state, whatever the draws. -/
def Obligations.RunningCommandAlwaysSteps : Prop :=
  ∀ (i : Instr) (s : State) (op : BitVec 4) (pos : Pos) (l : Locals),
    s.Inv → s.seq = .run op pos l → decode s.opl = .ok i → ∃ t, exec i s = .next t

/-- Every operation ends (rule R306): with no turn of the host or of RST to come and enough deasserted samples among the
draws, whatever asserted ones stand between them, a running operation finishes within a bound. -/
def Obligations.EveryOperationEnds : Prop :=
  ∀ s : State, s.Inv → s.seq ≠ .idle → s.env.rst = false → s.env.turns = [] →
    3060 ≤ (s.env.brl.filter (fun b => decide (b = .deasserted))).length →
    ∃ (k : Nat) (t : State), k ≤ 30000 + s.env.brl.length ∧ Host.Core.run Sys2Proof.core k s = .next t ∧
      t.busy = false ∧ t.seq = .idle ∧ t.done ≠ .none
end

