-- ==== Sys2Proof/Laws/State.lean ====
section
/-! SUPPORT. One lemma per field of State for each named update (Machine/Ops.lean, Machine/HostWindow.lean), each true by
rfl, so that no proof unfolds a record update; and the fields of the reset state (rule R60). -/

namespace Sys2Proof.Machine

@[simp] theorem State.emit_busy (e : Event) (s : State) : (s.emit e).busy = s.busy := rfl
@[simp] theorem State.emit_done (e : Event) (s : State) : (s.emit e).done = s.done := rfl
@[simp] theorem State.emit_lstate (e : Event) (s : State) : (s.emit e).lstate = s.lstate := rfl
@[simp] theorem State.emit_overrun (e : Event) (s : State) : (s.emit e).overrun = s.overrun := rfl
@[simp] theorem State.emit_attempts (e : Event) (s : State) : (s.emit e).attempts = s.attempts := rfl
@[simp] theorem State.emit_repsDone (e : Event) (s : State) : (s.emit e).repsDone = s.repsDone := rfl
@[simp] theorem State.emit_rdata (e : Event) (s : State) : (s.emit e).rdata = s.rdata := rfl
@[simp] theorem State.emit_addr (e : Event) (s : State) : (s.emit e).addr = s.addr := rfl
@[simp] theorem State.emit_rxlen (e : Event) (s : State) : (s.emit e).rxlen = s.rxlen := rfl
@[simp] theorem State.emit_fb (e : Event) (s : State) : (s.emit e).fb = s.fb := rfl
@[simp] theorem State.emit_seq (e : Event) (s : State) : (s.emit e).seq = s.seq := rfl
@[simp] theorem State.emit_opl (e : Event) (s : State) : (s.emit e).opl = s.opl := rfl
@[simp] theorem State.emit_sel (e : Event) (s : State) : (s.emit e).sel = s.sel := rfl
@[simp] theorem State.emit_wcnt (e : Event) (s : State) : (s.emit e).wcnt = s.wcnt := rfl
@[simp] theorem State.emit_trace (e : Event) (s : State) : (s.emit e).trace = s.trace ++ [e] := rfl
@[simp] theorem State.emit_env (e : Event) (s : State) : (s.emit e).env = s.env := rfl

@[simp] theorem State.goto_busy (op : BitVec 4) (pos : Pos) (l : Locals) (s : State) : (s.goto op pos l).busy = s.busy := rfl
@[simp] theorem State.goto_done (op : BitVec 4) (pos : Pos) (l : Locals) (s : State) : (s.goto op pos l).done = s.done := rfl
@[simp] theorem State.goto_lstate (op : BitVec 4) (pos : Pos) (l : Locals) (s : State) : (s.goto op pos l).lstate = s.lstate := rfl
@[simp] theorem State.goto_overrun (op : BitVec 4) (pos : Pos) (l : Locals) (s : State) : (s.goto op pos l).overrun = s.overrun := rfl
@[simp] theorem State.goto_attempts (op : BitVec 4) (pos : Pos) (l : Locals) (s : State) : (s.goto op pos l).attempts = s.attempts := rfl
@[simp] theorem State.goto_repsDone (op : BitVec 4) (pos : Pos) (l : Locals) (s : State) : (s.goto op pos l).repsDone = s.repsDone := rfl
@[simp] theorem State.goto_rdata (op : BitVec 4) (pos : Pos) (l : Locals) (s : State) : (s.goto op pos l).rdata = s.rdata := rfl
@[simp] theorem State.goto_addr (op : BitVec 4) (pos : Pos) (l : Locals) (s : State) : (s.goto op pos l).addr = s.addr := rfl
@[simp] theorem State.goto_rxlen (op : BitVec 4) (pos : Pos) (l : Locals) (s : State) : (s.goto op pos l).rxlen = s.rxlen := rfl
@[simp] theorem State.goto_fb (op : BitVec 4) (pos : Pos) (l : Locals) (s : State) : (s.goto op pos l).fb = s.fb := rfl
@[simp] theorem State.goto_seq (op : BitVec 4) (pos : Pos) (l : Locals) (s : State) : (s.goto op pos l).seq = .run op pos l := rfl
@[simp] theorem State.goto_opl (op : BitVec 4) (pos : Pos) (l : Locals) (s : State) : (s.goto op pos l).opl = s.opl := rfl
@[simp] theorem State.goto_sel (op : BitVec 4) (pos : Pos) (l : Locals) (s : State) : (s.goto op pos l).sel = s.sel := rfl
@[simp] theorem State.goto_wcnt (op : BitVec 4) (pos : Pos) (l : Locals) (s : State) : (s.goto op pos l).wcnt = s.wcnt := rfl
@[simp] theorem State.goto_trace (op : BitVec 4) (pos : Pos) (l : Locals) (s : State) : (s.goto op pos l).trace = s.trace := rfl
@[simp] theorem State.goto_env (op : BitVec 4) (pos : Pos) (l : Locals) (s : State) : (s.goto op pos l).env = s.env := rfl

@[simp] theorem State.finish_busy (c : Done) (s : State) : (s.finish c).busy = false := rfl
@[simp] theorem State.finish_done (c : Done) (s : State) : (s.finish c).done = c := rfl
@[simp] theorem State.finish_lstate (c : Done) (s : State) : (s.finish c).lstate = s.lstate := rfl
@[simp] theorem State.finish_overrun (c : Done) (s : State) : (s.finish c).overrun = s.overrun := rfl
@[simp] theorem State.finish_attempts (c : Done) (s : State) : (s.finish c).attempts = s.attempts := rfl
@[simp] theorem State.finish_repsDone (c : Done) (s : State) : (s.finish c).repsDone = s.repsDone := rfl
@[simp] theorem State.finish_rdata (c : Done) (s : State) : (s.finish c).rdata = s.rdata := rfl
@[simp] theorem State.finish_addr (c : Done) (s : State) : (s.finish c).addr = s.addr := rfl
@[simp] theorem State.finish_rxlen (c : Done) (s : State) : (s.finish c).rxlen = s.rxlen := rfl
@[simp] theorem State.finish_fb (c : Done) (s : State) : (s.finish c).fb = s.fb := rfl
@[simp] theorem State.finish_seq (c : Done) (s : State) : (s.finish c).seq = .idle := rfl
@[simp] theorem State.finish_opl (c : Done) (s : State) : (s.finish c).opl = s.opl := rfl
@[simp] theorem State.finish_sel (c : Done) (s : State) : (s.finish c).sel = s.sel := rfl
@[simp] theorem State.finish_wcnt (c : Done) (s : State) : (s.finish c).wcnt = s.wcnt := rfl
@[simp] theorem State.finish_trace (c : Done) (s : State) : (s.finish c).trace = s.trace := rfl
@[simp] theorem State.finish_env (c : Done) (s : State) : (s.finish c).env = s.env := rfl

@[simp] theorem State.abort_busy (s : State) : (s.abort).busy = false := rfl
@[simp] theorem State.abort_done (s : State) : (s.abort).done = .notResponding := rfl
@[simp] theorem State.abort_lstate (s : State) : (s.abort).lstate = s.lstate := rfl
@[simp] theorem State.abort_overrun (s : State) : (s.abort).overrun = s.overrun := rfl
@[simp] theorem State.abort_attempts (s : State) : (s.abort).attempts = s.attempts := rfl
@[simp] theorem State.abort_repsDone (s : State) : (s.abort).repsDone = s.repsDone := rfl
@[simp] theorem State.abort_rdata (s : State) : (s.abort).rdata = s.rdata := rfl
@[simp] theorem State.abort_addr (s : State) : (s.abort).addr = s.addr := rfl
@[simp] theorem State.abort_rxlen (s : State) : (s.abort).rxlen = s.rxlen := rfl
@[simp] theorem State.abort_fb (s : State) : (s.abort).fb = s.fb := rfl
@[simp] theorem State.abort_seq (s : State) : (s.abort).seq = .idle := rfl
@[simp] theorem State.abort_opl (s : State) : (s.abort).opl = s.opl := rfl
@[simp] theorem State.abort_sel (s : State) : (s.abort).sel = s.sel := rfl
@[simp] theorem State.abort_wcnt (s : State) : (s.abort).wcnt = s.wcnt := rfl
@[simp] theorem State.abort_trace (s : State) : (s.abort).trace = s.trace := rfl
@[simp] theorem State.abort_env (s : State) : (s.abort).env = s.env := rfl

@[simp] theorem State.abortLearn_busy (s : State) : s.abortLearn.busy = false := rfl
@[simp] theorem State.abortLearn_done (s : State) : s.abortLearn.done = .notResponding := rfl
@[simp] theorem State.abortLearn_lstate (s : State) : s.abortLearn.lstate = if s.lstate = .found then .found else .idle := rfl
@[simp] theorem State.abortLearn_overrun (s : State) : s.abortLearn.overrun = s.overrun := rfl
@[simp] theorem State.abortLearn_attempts (s : State) : s.abortLearn.attempts = s.attempts := rfl
@[simp] theorem State.abortLearn_repsDone (s : State) : s.abortLearn.repsDone = s.repsDone := rfl
@[simp] theorem State.abortLearn_rdata (s : State) : s.abortLearn.rdata = s.rdata := rfl
@[simp] theorem State.abortLearn_addr (s : State) : s.abortLearn.addr = s.addr := rfl
@[simp] theorem State.abortLearn_rxlen (s : State) : s.abortLearn.rxlen = s.rxlen := rfl
@[simp] theorem State.abortLearn_fb (s : State) : s.abortLearn.fb = s.fb := rfl
@[simp] theorem State.abortLearn_seq (s : State) : s.abortLearn.seq = .idle := rfl
@[simp] theorem State.abortLearn_opl (s : State) : s.abortLearn.opl = s.opl := rfl
@[simp] theorem State.abortLearn_sel (s : State) : s.abortLearn.sel = s.sel := rfl
@[simp] theorem State.abortLearn_wcnt (s : State) : s.abortLearn.wcnt = s.wcnt := rfl
@[simp] theorem State.abortLearn_trace (s : State) : s.abortLearn.trace = s.trace := rfl
@[simp] theorem State.abortLearn_env (s : State) : s.abortLearn.env = s.env := rfl

@[simp] theorem State.accept_busy (w : Word) (s : State) : (s.accept w).busy = true := rfl
@[simp] theorem State.accept_done (w : Word) (s : State) : (s.accept w).done = .none := rfl
@[simp] theorem State.accept_lstate (w : Word) (s : State) : (s.accept w).lstate = s.lstate := rfl
@[simp] theorem State.accept_overrun (w : Word) (s : State) : (s.accept w).overrun = s.overrun := rfl
@[simp] theorem State.accept_attempts (w : Word) (s : State) : (s.accept w).attempts = s.attempts := rfl
@[simp] theorem State.accept_repsDone (w : Word) (s : State) : (s.accept w).repsDone = s.repsDone := rfl
@[simp] theorem State.accept_rdata (w : Word) (s : State) : (s.accept w).rdata = s.rdata := rfl
@[simp] theorem State.accept_addr (w : Word) (s : State) : (s.accept w).addr = s.addr := rfl
@[simp] theorem State.accept_rxlen (w : Word) (s : State) : (s.accept w).rxlen = s.rxlen := rfl
@[simp] theorem State.accept_fb (w : Word) (s : State) : (s.accept w).fb = s.fb := rfl
@[simp] theorem State.accept_seq (w : Word) (s : State) : (s.accept w).seq = .run (fieldOp w) .start {} := rfl
@[simp] theorem State.accept_opl (w : Word) (s : State) : (s.accept w).opl = w := rfl
@[simp] theorem State.accept_sel (w : Word) (s : State) : (s.accept w).sel = s.sel := rfl
@[simp] theorem State.accept_wcnt (w : Word) (s : State) : (s.accept w).wcnt = s.wcnt := rfl
@[simp] theorem State.accept_trace (w : Word) (s : State) : (s.accept w).trace = s.trace := rfl
@[simp] theorem State.accept_env (w : Word) (s : State) : (s.accept w).env = s.env := rfl

@[simp] theorem State.returnWord_busy (w : Word) (s : State) : (s.returnWord w).busy = s.busy := rfl
@[simp] theorem State.returnWord_done (w : Word) (s : State) : (s.returnWord w).done = s.done := rfl
@[simp] theorem State.returnWord_lstate (w : Word) (s : State) : (s.returnWord w).lstate = s.lstate := rfl
@[simp] theorem State.returnWord_overrun (w : Word) (s : State) : (s.returnWord w).overrun = s.overrun := rfl
@[simp] theorem State.returnWord_attempts (w : Word) (s : State) : (s.returnWord w).attempts = s.attempts := rfl
@[simp] theorem State.returnWord_repsDone (w : Word) (s : State) : (s.returnWord w).repsDone = s.repsDone := rfl
@[simp] theorem State.returnWord_rdata (w : Word) (s : State) : (s.returnWord w).rdata = s.rdata := rfl
@[simp] theorem State.returnWord_addr (w : Word) (s : State) : (s.returnWord w).addr = s.addr := rfl
@[simp] theorem State.returnWord_rxlen (w : Word) (s : State) : (s.returnWord w).rxlen = s.rxlen := rfl
@[simp] theorem State.returnWord_fb (w : Word) (s : State) : (s.returnWord w).fb = s.fb := rfl
@[simp] theorem State.returnWord_seq (w : Word) (s : State) : (s.returnWord w).seq = s.seq := rfl
@[simp] theorem State.returnWord_opl (w : Word) (s : State) : (s.returnWord w).opl = s.opl := rfl
@[simp] theorem State.returnWord_sel (w : Word) (s : State) : (s.returnWord w).sel = s.sel := rfl
@[simp] theorem State.returnWord_wcnt (w : Word) (s : State) : (s.returnWord w).wcnt = s.wcnt := rfl
@[simp] theorem State.returnWord_trace (w : Word) (s : State) : (s.returnWord w).trace = s.trace := rfl
@[simp] theorem State.returnWord_env (w : Word) (s : State) : (s.returnWord w).env = { s.env with reads := s.env.reads ++ [w] } := rfl

@[simp] theorem State.withTurns_busy (ts : List Turn) (s : State) : (s.withTurns ts).busy = s.busy := rfl
@[simp] theorem State.withTurns_done (ts : List Turn) (s : State) : (s.withTurns ts).done = s.done := rfl
@[simp] theorem State.withTurns_lstate (ts : List Turn) (s : State) : (s.withTurns ts).lstate = s.lstate := rfl
@[simp] theorem State.withTurns_overrun (ts : List Turn) (s : State) : (s.withTurns ts).overrun = s.overrun := rfl
@[simp] theorem State.withTurns_attempts (ts : List Turn) (s : State) : (s.withTurns ts).attempts = s.attempts := rfl
@[simp] theorem State.withTurns_repsDone (ts : List Turn) (s : State) : (s.withTurns ts).repsDone = s.repsDone := rfl
@[simp] theorem State.withTurns_rdata (ts : List Turn) (s : State) : (s.withTurns ts).rdata = s.rdata := rfl
@[simp] theorem State.withTurns_addr (ts : List Turn) (s : State) : (s.withTurns ts).addr = s.addr := rfl
@[simp] theorem State.withTurns_rxlen (ts : List Turn) (s : State) : (s.withTurns ts).rxlen = s.rxlen := rfl
@[simp] theorem State.withTurns_fb (ts : List Turn) (s : State) : (s.withTurns ts).fb = s.fb := rfl
@[simp] theorem State.withTurns_seq (ts : List Turn) (s : State) : (s.withTurns ts).seq = s.seq := rfl
@[simp] theorem State.withTurns_opl (ts : List Turn) (s : State) : (s.withTurns ts).opl = s.opl := rfl
@[simp] theorem State.withTurns_sel (ts : List Turn) (s : State) : (s.withTurns ts).sel = s.sel := rfl
@[simp] theorem State.withTurns_wcnt (ts : List Turn) (s : State) : (s.withTurns ts).wcnt = s.wcnt := rfl
@[simp] theorem State.withTurns_trace (ts : List Turn) (s : State) : (s.withTurns ts).trace = s.trace := rfl
@[simp] theorem State.withTurns_env (ts : List Turn) (s : State) : (s.withTurns ts).env = { s.env with turns := ts } := rfl

@[simp] theorem State.resetWith_busy (t : List Event) (e : Env) : (State.resetWith t e).busy = false := rfl
@[simp] theorem State.resetWith_done (t : List Event) (e : Env) : (State.resetWith t e).done = .none := rfl
@[simp] theorem State.resetWith_lstate (t : List Event) (e : Env) : (State.resetWith t e).lstate = .idle := rfl
@[simp] theorem State.resetWith_overrun (t : List Event) (e : Env) : (State.resetWith t e).overrun = false := rfl
@[simp] theorem State.resetWith_attempts (t : List Event) (e : Env) : (State.resetWith t e).attempts = 0 := rfl
@[simp] theorem State.resetWith_repsDone (t : List Event) (e : Env) : (State.resetWith t e).repsDone = 0 := rfl
@[simp] theorem State.resetWith_rdata (t : List Event) (e : Env) : (State.resetWith t e).rdata = 0 := rfl
@[simp] theorem State.resetWith_addr (t : List Event) (e : Env) : (State.resetWith t e).addr = { a := 0, b := 0 } := rfl
@[simp] theorem State.resetWith_rxlen (t : List Event) (e : Env) : (State.resetWith t e).rxlen = 0 := rfl
@[simp] theorem State.resetWith_fb (t : List Event) (e : Env) : (State.resetWith t e).fb = Vector.replicate 8 0 := rfl
@[simp] theorem State.resetWith_seq (t : List Event) (e : Env) : (State.resetWith t e).seq = .idle := rfl
@[simp] theorem State.resetWith_opl (t : List Event) (e : Env) : (State.resetWith t e).opl = 0 := rfl
@[simp] theorem State.resetWith_sel (t : List Event) (e : Env) : (State.resetWith t e).sel = .deasserted := rfl
@[simp] theorem State.resetWith_wcnt (t : List Event) (e : Env) : (State.resetWith t e).wcnt = 0 := rfl
@[simp] theorem State.resetWith_trace (t : List Event) (e : Env) : (State.resetWith t e).trace = t := rfl
@[simp] theorem State.resetWith_env (t : List Event) (e : Env) : (State.resetWith t e).env = e := rfl

end Sys2Proof.Machine
end

