-- ==== Sys2Proof/Laws/Ops.lean ====
section
/-! SUPPORT. For each shared operation, what it can do, said once: the draws, an exchange, a readiness sample, a step of a
transaction, a meaning at a position, the parser, the host's accesses, the turns. The provers cite these instead of
unfolding the operation. -/

namespace Sys2Proof.Machine

/-- Taking a sample touches only the environment. -/
theorem State.popBrl_eq (s : State) : s.popBrl = { s with env := s.popBrl.env } := by
  unfold State.popBrl
  split <;> rfl

/-- Taking a received byte touches only the environment. -/
theorem State.popRx_eq (s : State) : s.popRx = { s with env := s.popRx.env } := by
  unfold State.popRx
  split <;> rfl

/-- A listed sample is the one taken. -/
theorem State.brl_cons {s : State} {b : Level} {bs : List Level} (h : s.env.brl = b :: bs) :
    s.nextBrl = b ∧ s.popBrl = { s with env := { s.env with brl := bs } } := by
  constructor
  · simp [State.nextBrl, h]
  · simp [State.popBrl, h]

/-- A listed byte is the one received. -/
theorem State.rx_cons {s : State} {b : Byte} {bs : List Byte} (h : s.env.rx = b :: bs) :
    s.nextRx = b ∧ s.popRx = { s with env := { s.env with rx := bs } } := by
  constructor
  · simp [State.nextRx, h]
  · simp [State.popRx, h]

/-- A sample leaves the turns, the reset input and the host's reads alone. -/
theorem State.popBrl_env (s : State) :
    s.popBrl.env.turns = s.env.turns ∧ s.popBrl.env.rst = s.env.rst ∧ s.popBrl.env.reads = s.env.reads := by
  unfold State.popBrl
  split <;> simp

/-- A received byte leaves the turns, the reset input and the host's reads alone. -/
theorem State.popRx_env (s : State) :
    s.popRx.env.turns = s.env.turns ∧ s.popRx.env.rst = s.env.rst ∧ s.popRx.env.reads = s.env.reads := by
  unfold State.popRx
  split <;> simp

/-- An exchange appends one event and takes one byte (rule R133). -/
theorem State.xchg_eq (o : Byte) (s : State) :
    s.xchg o = { s with trace := s.trace ++ [.x o s.nextRx], env := s.popRx.env } := by
  rw [State.xchg, s.popRx_eq]
  rfl

/-- Everything one readiness sample can do (rule R131). -/
theorem State.sampleBrl_cases (p : Params) (op : BitVec 4) (t : Txn) (l : Locals) (stop : State → State) (s : State) :
    (s.nextBrl = .deasserted ∧ s.sampleBrl p op t l stop =
      { s with wcnt := s.wcnt + 1, trace := s.trace ++ [.wait (s.wcnt + 1)], env := s.popBrl.env,
               seq := .run op (.bus t .select) l }) ∨
    (s.nextBrl = .asserted ∧ p.readyTimeout = some (s.wcnt + 1) ∧
      s.sampleBrl p op t l stop = stop { s with wcnt := s.wcnt + 1, env := s.popBrl.env }) ∨
    (s.nextBrl = .asserted ∧ p.readyTimeout ≠ some (s.wcnt + 1) ∧
      s.sampleBrl p op t l stop = { s with wcnt := s.wcnt + 1, env := s.popBrl.env }) := by
  have hp := s.popBrl_eq
  unfold State.sampleBrl
  rw [hp]
  cases hb : s.nextBrl with
  | deasserted => exact .inl ⟨rfl, by simp [State.emit, State.goto]⟩
  | asserted =>
    by_cases ht : p.readyTimeout = some (s.wcnt + 1)
    · exact .inr (.inl ⟨rfl, ht, by simp [ht]⟩)
    · exact .inr (.inr ⟨rfl, ht, by simp [ht]⟩)

/-- Everything one step of a transaction can do (rules R131 to R136), for each micro-operation the state it leads to;
a readiness sample is described by `State.sampleBrl_cases`. -/
theorem busStep_next {p : Params} {x : Xfer} {op : BitVec 4} {t : Txn} {l : Locals} {after : Seq}
    {stop : State → State} {b : BusPos} {s u : State} (h : busStep p x op t l after stop b s = .next u) :
    (b = .clear ∧ u = { s with wcnt := 0, seq := .run op (.bus t .sample) l }) ∨
    (b = .sample ∧ u = s.sampleBrl p op t l stop) ∨
    (b = .select ∧ u = { s with sel := .asserted, trace := s.trace ++ [.sel], seq := .run op (.bus t .header) l }) ∨
    (b = .header ∧ u = { s with
      trace := s.trace ++ [.x x.header s.nextRx]
      env := s.popRx.env
      seq := .run op (.bus t (if x.payload = [] then .deselect else .gap 0)) l }) ∨
    (∃ k, b = .gap k ∧
      u = { s with trace := s.trace ++ [.gap p.tByte], seq := .run op (.bus t (.payload k)) l }) ∨
    (∃ k o, b = .payload k ∧ x.payload[k]? = some o ∧ u = { s with
      trace := s.trace ++ [.x o s.nextRx]
      env := s.popRx.env
      seq := .run op (.bus t (if k + 1 < x.payload.length then .gap (k + 1) else .deselect))
        (if x.reads then { l with v := s.nextRx } else l) }) ∨
    (b = .deselect ∧
      u = { s with sel := .deasserted, trace := s.trace ++ [.desel], seq := .run op (.bus t .delay) l }) ∨
    (b = .delay ∧ u = { s with trace := s.trace ++ [.dly x.settle], seq := after }) := by
  cases b with
  | clear => exact .inl ⟨rfl, by cases h; rfl⟩
  | sample => exact .inr (.inl ⟨rfl, by cases h; rfl⟩)
  | select => exact .inr (.inr (.inl ⟨rfl, by cases h; rfl⟩))
  | header =>
    refine .inr (.inr (.inr (.inl ⟨rfl, ?_⟩)))
    simp only [busStep, State.xchg_eq] at h
    cases h
    rfl
  | gap k => exact .inr (.inr (.inr (.inr (.inl ⟨k, rfl, by cases h; rfl⟩))))
  | payload k =>
    refine .inr (.inr (.inr (.inr (.inr (.inl ?_)))))
    simp only [busStep] at h
    split at h
    · cases h
    · next o ho =>
      rw [State.xchg_eq] at h
      cases h
      exact ⟨k, o, rfl, ho, rfl⟩
  | deselect => exact .inr (.inr (.inr (.inr (.inr (.inr (.inl ⟨rfl, by cases h; rfl⟩))))))
  | delay => exact .inr (.inr (.inr (.inr (.inr (.inr (.inr ⟨rfl, by cases h; rfl⟩))))))

/-- A meaning that answers a next state stood at a position of its own command. -/
theorem atOp_next {op : BitVec 4} {s t : State} {k : Pos → Locals → Out} (h : atOp op s k = .next t) :
    ∃ pos l, s.seq = .run op pos l ∧ k pos l = .next t := by
  unfold atOp at h
  split at h
  · cases h
  · next o pos l hs =>
    split at h
    · next ho => exact ⟨pos, l, by rw [hs, ho], h⟩
    · cases h

/-- A meaning at a position of its own command. -/
theorem atOp_run {op : BitVec 4} {s : State} {pos : Pos} {l : Locals} {k : Pos → Locals → Out}
    (h : s.seq = .run op pos l) : atOp op s k = k pos l := by
  simp [atOp, h]

/-- A candidate's pair is never the sentinel (rules R48, R177). -/
theorem matchAt_isAddress {f : List Byte} {r : FixtureAddress} (h : matchAt f = some r) : isAddress r = true := by
  unfold matchAt at h
  split at h
  · split at h
    · next hc =>
      cases h
      simp only [isAddress, decide_eq_true_eq]
      exact hc.2.2.2
    · cases h
  · cases h

/-- A parsed pair is never the sentinel (rules R48, R177). -/
theorem parse_isAddress : ∀ {f : List Byte} {r : FixtureAddress}, parse f = some r → isAddress r = true
  | [], _, h => by cases h
  | f0 :: rest, r, h => by
    unfold parse at h
    split at h
    · next hm =>
      cases h
      exact matchAt_isAddress hm
    · exact parse_isAddress h

/-- A host turn that answers a next state was an aligned access inside the window (rule R74). -/
theorem hostTurn_next {a : HostAccess} {s t : State} (h : hostTurn a s = .next t) :
    a.aligned = true ∧ a.inWindow = true ∧ t = s.access a := by
  unfold hostTurn at h
  split at h
  · next ha =>
    split at h
    · next hw => exact ⟨ha, hw, by cases h; rfl⟩
    · cases h
  · cases h

/-- Everything an access can do: return a word, be ignored, be lost and recorded, or be accepted (rules R36, R73,
R264, R290). -/
theorem State.access_cases (a : HostAccess) (s : State) :
    (∃ off n, a = .read off n ∧ s.access a = s.returnWord (s.readReg off)) ∨
    s.access a = s ∨
    (∃ n w, a = .write 0 n w ∧ s.env.rst = false ∧ s.busy = true ∧ s.access a = { s with overrun := true }) ∨
    (∃ n w, a = .write 0 n w ∧ s.env.rst = false ∧ s.busy = false ∧ s.access a = s.accept w) := by
  cases a with
  | read off n => exact .inl ⟨off, n, rfl, rfl⟩
  | write off n w =>
    by_cases hr : s.env.rst = true
    · exact .inr (.inl (by simp [State.access, hr]))
    · have hr' : s.env.rst = false := by simpa using hr
      by_cases ho : off = 0
      · subst ho
        cases hb : s.busy with
        | true => exact .inr (.inr (.inl ⟨n, w, rfl, hr', rfl, by simp [State.access, hr', State.writeReg, State.writeCmd, hb]⟩))
        | false => exact .inr (.inr (.inr ⟨n, w, rfl, hr', rfl, by simp [State.access, hr', State.writeReg, State.writeCmd, hb]⟩))
      · exact .inr (.inl (by simp [State.access, hr', State.writeReg, ho]))

/-- Everything a SEQ turn can do: nothing, or the next step of the command in OPL, or the end of an illegal word. -/
theorem seqTurn_next {run : Instr → State → Out} {s t : State} (h : seqTurn run s = .next t) :
    (t = s ∧ (s.env.rst = true ∨ s.seq = .idle)) ∨
    (s.env.rst = false ∧ ∃ op pos l, s.seq = .run op pos l ∧
      ((∃ i, decode s.opl = .ok i ∧ run i s = .next t) ∨
       (∃ e, decode s.opl = .error e ∧ pos = .start ∧ t = s.finish .illegal))) := by
  unfold seqTurn at h
  split at h
  · next hr => exact .inl ⟨by cases h; rfl, .inl hr⟩
  · next hr =>
    split at h
    · next hs => exact .inl ⟨by cases h; rfl, .inr hs⟩
    · next op pos l hs =>
      refine .inr ⟨by simpa using hr, op, pos, l, hs, ?_⟩
      split at h
      · next i hd => exact .inl ⟨i, hd, h⟩
      · next e hd =>
        refine .inr ⟨e, hd, ?_⟩
        unfold illegalStep at h
        split at h
        · next heq =>
          rw [hs] at heq
          cases heq
          exact ⟨rfl, by cases h; rfl⟩
        · cases h

end Sys2Proof.Machine
end

