-- ==== Sys2Proof/Laws/PerInstr.lean ====
section
/-! SUPPORT. What holds of every command as syntax, one lemma per constructor: its word carries its opcode in OP and
zero in RSV (30_encoding.md rules R101, R102). -/

namespace Sys2Proof

open Machine

/-- The five fields of a packed word (rule R101). -/
theorem packWord_fields (op : BitVec 4) (f2 f1 f0 : Byte) :
    fieldOp (packWord op f2 f1 f0) = op ∧ fieldRsv (packWord op f2 f1 f0) = 0 ∧
    fieldF2 (packWord op f2 f1 f0) = f2 ∧ fieldF1 (packWord op f2 f1 f0) = f1 ∧ fieldF0 (packWord op f2 f1 f0) = f0 := by
  refine ⟨?_, ?_, ?_, ?_, ?_⟩ <;>
  · refine BitVec.eq_of_getLsbD_eq fun i hi => ?_
    simp only [fieldOp, fieldRsv, fieldF2, fieldF1, fieldF0, packWord, BitVec.getLsbD_extractLsb',
      BitVec.getLsbD_append, hi, decide_true, Bool.true_and]
    interval_cases i <;> simp

/-- A word that decodes carries the opcode of its command (rules R102, R106). -/
theorem opcode_of_decode {w : Word} {i : Instr} (h : decode w = .ok i) : opcode i = fieldOp w := by
  unfold decode at h
  split at h
  · unfold decodeFields at h
    repeat' split at h
    all_goals first
      | (cases h; simp_all [opcode])
      | cases h
  · cases h

namespace Laws

/-- The word of `i` carries its opcode, and zero in the reserved field. -/
def EncodeOpcode.Statement (i : Instr) : Prop := fieldOp (encode i) = opcode i ∧ fieldRsv (encode i) = 0

theorem EncodeOpcode.nop : EncodeOpcode.Statement .nop := by
  constructor <;> decide

theorem EncodeOpcode.rdreg (a : RegAddr) : EncodeOpcode.Statement (.rdreg a) :=
  ⟨(packWord_fields _ _ _ _).1, (packWord_fields _ _ _ _).2.1⟩

theorem EncodeOpcode.wrreg (a : RegAddr) (v : Byte) : EncodeOpcode.Statement (.wrreg a v) :=
  ⟨(packWord_fields _ _ _ _).1, (packWord_fields _ _ _ _).2.1⟩

theorem EncodeOpcode.strobe (c : Byte) (t : BitVec 16) : EncodeOpcode.Statement (.strobe c t) :=
  ⟨(packWord_fields _ _ _ _).1, (packWord_fields _ _ _ _).2.1⟩

theorem EncodeOpcode.tx (k : CommandCode) (n : Byte) : EncodeOpcode.Statement (.tx k n) :=
  ⟨(packWord_fields _ _ _ _).1, (packWord_fields _ _ _ _).2.1⟩

theorem EncodeOpcode.learn : EncodeOpcode.Statement .learn := by
  constructor <;> decide

theorem EncodeOpcode.setaddr (a b : Byte) : EncodeOpcode.Statement (.setaddr a b) :=
  ⟨(packWord_fields _ _ _ _).1, (packWord_fields _ _ _ _).2.1⟩

theorem EncodeOpcode.init : EncodeOpcode.Statement .init := by
  constructor <;> decide

end Laws

end Sys2Proof
end

