-- ==== Sys2Proof/Laws/Transaction.lean ====
section
/-! SUPPORT. A whole transaction, from `WCNT <- 0` to its final delay, run by any step function that treats the
positions of the transaction as `busStep` does: the one trace of rule R136 and the one state it ends in. -/

namespace Sys2Proof.Machine

/-- Running on after a run. -/
theorem runFn_add (f : State → Out) (s t : State) : ∀ (m n : Nat), runFn f m s = .next t → runFn f (m + n) s = runFn f n t
  | 0, n, h => by
    simp only [runFn] at h
    cases h
    rw [Nat.zero_add]
  | m + 1, n, h => by
    rw [Nat.succ_add]
    simp only [runFn] at h ⊢
    split at h
    · next u hu => exact runFn_add f u t m n h
    · cases h
    · cases h

/-- One more step at the front of a run. -/
theorem runFn_succ (f : State → Out) {s t : State} (k : Nat) (h : f s = .next t) : runFn f (k + 1) s = runFn f k t := by
  simp [runFn, h]

/-- The locals after the received bytes `is` came with a transaction's payload: a reading one keeps the last. -/
def recvLocals (x : Xfer) (l : Locals) (is : List Byte) : Locals :=
  if x.reads then is.foldl (fun l i => { l with v := i }) l else l

/-- `f` treats the positions of line `t` of the command with opcode `op` as the transaction `x`, in every state whose
ADDR is `adr`. -/
def RunsTxn (f : State → Out) (p : Params) (x : Xfer) (op : BitVec 4) (t : Txn) (adr : FixtureAddress)
    (after : Locals → Seq) (stop : Locals → State → State) (ok : Locals → Prop) : Prop :=
  ∀ b l s, ok l → s.seq = .run op (.bus t b) l → s.addr = adr → f s = busStep p x op t l (after l) (stop l) b s

section
variable {f : State → Out} {p : Params} {x : Xfer} {op : BitVec 4} {t : Txn} {adr : FixtureAddress}
  {after : Locals → Seq} {stop : Locals → State → State} {ok : Locals → Prop}

/-- The readiness wait of `m` asserted samples and a deasserted one (rule R131). -/
theorem runFn_wait (hf : RunsTxn f p x op t adr after stop ok) {l : Locals} (hok : ok l) {bs : List Level} :
    ∀ (m : Nat) (s : State), s.seq = .run op (.bus t .sample) l → s.addr = adr →
      s.env.brl = List.replicate m .asserted ++ .deasserted :: bs →
      (∀ n, p.readyTimeout = some n → s.wcnt + m < n) →
      runFn f (m + 1) s = .next { s with
        wcnt := s.wcnt + m + 1
        trace := s.trace ++ [.wait (s.wcnt + m + 1)]
        env := { s.env with brl := bs }
        seq := .run op (.bus t .select) l }
  | 0, s, hs, ha, hb, ht => by
    have h1 := hf .sample l s hok hs ha
    obtain ⟨hn, hp⟩ := State.brl_cons (s := s) (b := .deasserted) (bs := bs) (by simpa using hb)
    rw [runFn, h1]
    simp [busStep, State.sampleBrl, hn, hp, runFn, State.emit, State.goto]
  | m + 1, s, hs, ha, hb, ht => by
    have h1 := hf .sample l s hok hs ha
    obtain ⟨hn, hp⟩ := State.brl_cons (s := s) (b := .asserted)
      (bs := List.replicate m .asserted ++ .deasserted :: bs) (by simpa [List.replicate_succ] using hb)
    have hne : p.readyTimeout ≠ some (s.wcnt + 1) := fun h => by
      have := ht _ h
      omega
    have h2 : f s = .next { s with
        wcnt := s.wcnt + 1
        env := { s.env with brl := List.replicate m .asserted ++ .deasserted :: bs } } := by
      rw [h1]
      simp [busStep, State.sampleBrl, hn, hp, hne]
    rw [runFn_succ f (m + 1) h2]
    refine (runFn_wait hf hok m _ ?_ ?_ rfl fun n h => ?_).trans ?_
    · exact hs
    · exact ha
    · have := ht n h
      simp only
      omega
    · simp only [Nat.add_assoc, Nat.add_comm 1 m]

/-- The payload bytes from index `k` on (rule R136), up to `Deselect()`. -/
theorem runFn_payload (hf : RunsTxn f p x op t adr after stop ok)
    (hokv : ∀ l v, ok l → ok { l with v := v }) {rs : List Byte} :
    ∀ (os is : List Byte) (k : Nat) (l : Locals) (s : State), ok l → x.payload.drop k = os → os ≠ [] →
      is.length = os.length →
      s.seq = .run op (.bus t (.gap k)) l → s.addr = adr → s.env.rx = is ++ rs →
      runFn f (2 * os.length) s = .next { s with
        trace := s.trace ++ (os.zip is).flatMap (fun oi => [.gap p.tByte, .x oi.1 oi.2])
        env := { s.env with rx := rs }
        seq := .run op (.bus t .deselect) (recvLocals x l is) }
  | [], _, _, _, _, _, _, hne, _, _, _, _ => absurd rfl hne
  | o :: os, [], _, _, _, _, _, _, hl, _, _, _ => by simp at hl
  | o :: os, i :: is, k, l, s, hok, hd, _, hl, hs, ha, hr => by
    have hk : x.payload[k]? = some o := by
      have : (x.payload.drop k)[0]? = some o := by rw [hd]; rfl
      simpa using this
    have hd' : x.payload.drop (k + 1) = os := by
      rw [← List.drop_drop, hd]
      rfl
    have hlen : x.payload.length = k + (os.length + 1) := by
      have h := congrArg List.length hd
      simp only [List.length_drop, List.length_cons] at h
      omega
    have h1 : f s = .next ((s.emit (.gap p.tByte)).goto op (.bus t (.payload k)) l) := by
      rw [hf _ l s hok hs ha]
      rfl
    obtain ⟨hn, hp⟩ := State.rx_cons (s := (s.emit (.gap p.tByte)).goto op (.bus t (.payload k)) l) (b := i)
      (bs := is ++ rs) (by simpa using hr)
    have h2 := hf (.payload k) l ((s.emit (.gap p.tByte)).goto op (.bus t (.payload k)) l) hok rfl ha
    simp only [busStep, hk, State.xchg_eq, hn, hp] at h2
    have hlen2 : 2 * (o :: os).length = 2 * os.length + 1 + 1 := by
      simp only [List.length_cons]
      omega
    rw [hlen2, runFn_succ f _ h1, runFn_succ f _ h2]
    cases os with
    | nil =>
      have : is = [] := by
        simpa using hl
      subst this
      have hnl : ¬ (k + 1 < x.payload.length) := by
        rw [hlen]
        simp
      simp [runFn, hnl, recvLocals, State.emit, State.goto]
    | cons o' os' =>
      have hnl : k + 1 < x.payload.length := by
        rw [hlen]
        simp
      refine (runFn_payload hf hokv (rs := rs) (o' :: os') is (k + 1) (if x.reads then { l with v := i } else l) _ ?_ hd' (by simp)
        (by simpa using hl) ?_ ?_ ?_).trans ?_
      · split
        · exact hokv _ _ hok
        · exact hok
      · simp [hnl]
      · exact ha
      · rfl
      · simp only [recvLocals]
        cases hx : x.reads <;> simp [State.emit, State.goto]

/-- A property of locals that ignores `v` survives what a transaction receives. -/
theorem recvLocals_ok (hokv : ∀ l v, ok l → ok { l with v := v }) :
    ∀ (is : List Byte) {l : Locals}, ok l → ok (recvLocals x l is) := by
  intro is l hok
  unfold recvLocals
  split
  · induction is generalizing l with
    | nil => exact hok
    | cons i is ih => exact ih (hokv l i hok)
  · exact hok

/-- A whole transaction (rules R136, R140, R145, R150, R155): `m` asserted readiness samples before the deasserted
one, no bound reached, `i0` received with the header and `is` with the payload. -/
theorem runFn_txn (hf : RunsTxn f p x op t adr after stop ok) (hokv : ∀ l v, ok l → ok { l with v := v })
    {m : Nat} {l : Locals} {s : State} {bs : List Level} {i0 : Byte} {is rs : List Byte} (hok : ok l)
    (hs : s.seq = .run op (.bus t .clear) l) (ha : s.addr = adr)
    (hb : s.env.brl = List.replicate m .asserted ++ .deasserted :: bs) (hr : s.env.rx = i0 :: (is ++ rs))
    (hl : is.length = x.payload.length) (ht : ∀ n, p.readyTimeout = some n → m < n) :
    runFn f (m + 6 + 2 * x.payload.length) s = .next { s with
      wcnt := m + 1
      sel := .deasserted
      trace := s.trace ++ xferTrace p x (m + 1) i0 is
      env := { s.env with brl := bs, rx := rs }
      seq := after (recvLocals x l is) } := by
  have htail : ∀ (u : State) (l' : Locals), ok l' → u.seq = .run op (.bus t .deselect) l' → u.addr = adr →
      runFn f 2 u = .next { u with
        sel := .deasserted
        trace := u.trace ++ [.desel, .dly x.settle]
        seq := after l' } := by
    intro u l' hok' hu hua
    have h1 := hf .deselect l' u hok' hu hua
    have h2 := hf .delay l' (({ u with sel := .deasserted }.emit .desel).goto op (.bus t .delay) l') hok' rfl hua
    rw [runFn_succ f 1 h1, runFn_succ f 0 h2]
    simp [runFn, State.emit, State.goto]
  have hlocals := recvLocals_ok (x := x) hokv is hok
  have hlen : m + 6 + 2 * x.payload.length = m + 1 + (2 * x.payload.length + 2 + 1 + 1) + 1 := by omega
  have hclear : f s = .next ({ s with wcnt := 0 }.goto op (.bus t .sample) l) := hf _ l s hok hs ha
  rw [hlen, runFn_succ f _ hclear]
  have hwait := runFn_wait hf hok (bs := bs) m ({ s with wcnt := 0 }.goto op (.bus t .sample) l) rfl ha hb
    (by simpa using ht)
  rw [runFn_add f _ _ _ _ hwait]
  generalize hu : ({ ({ s with wcnt := 0 }.goto op (.bus t .sample) l : State) with
    wcnt := ({ s with wcnt := 0 }.goto op (.bus t .sample) l : State).wcnt + m + 1
    trace := ({ s with wcnt := 0 }.goto op (.bus t .sample) l : State).trace ++
      [.wait (({ s with wcnt := 0 }.goto op (.bus t .sample) l : State).wcnt + m + 1)]
    env := { ({ s with wcnt := 0 }.goto op (.bus t .sample) l : State).env with brl := bs }
    seq := .run op (.bus t .select) l } : State) = u
  have hue : u = { s with
      wcnt := m + 1
      trace := s.trace ++ [.wait (m + 1)]
      env := { s.env with brl := bs }
      seq := .run op (.bus t .select) l } := by
    rw [← hu]
    simp [State.goto]
  clear hu hwait hclear
  subst hue
  have hsel := hf .select l { s with
      wcnt := m + 1
      trace := s.trace ++ [Event.wait (m + 1)]
      env := { s.env with brl := bs }
      seq := .run op (.bus t .select) l } hok rfl ha
  rw [runFn_succ f _ hsel]
  have hhead := hf .header l (({ ({ s with
      wcnt := m + 1
      trace := s.trace ++ [Event.wait (m + 1)]
      env := { s.env with brl := bs }
      seq := .run op (.bus t .select) l } : State) with sel := .asserted }.emit .sel).goto op (.bus t .header) l)
    hok rfl ha
  obtain ⟨hn, hp⟩ := State.rx_cons (s := ({ ({ s with
      wcnt := m + 1
      trace := s.trace ++ [Event.wait (m + 1)]
      env := { s.env with brl := bs }
      seq := .run op (.bus t .select) l } : State) with sel := .asserted }.emit .sel).goto op (.bus t .header) l)
    (b := i0) (bs := is ++ rs) hr
  simp only [busStep, State.xchg_eq, hn, hp] at hhead
  rw [runFn_succ f _ hhead]
  by_cases hpl : x.payload = []
  · have his : is = [] := by simpa [hpl] using hl
    subst his
    simp only [hpl, List.length_nil, Nat.mul_zero, Nat.zero_add, if_true]
    refine (htail _ l hok ?_ ?_).trans ?_
    · rfl
    · exact ha
    · simp [xferTrace, hpl, recvLocals, State.emit, State.goto]
  · simp only [hpl, if_false]
    refine (runFn_add f _ _ _ 2 (runFn_payload hf hokv (rs := rs) x.payload is 0 l _ hok rfl hpl hl ?_ ?_ ?_)).trans ?_
    · rfl
    · exact ha
    · rfl
    · refine (htail _ _ hlocals ?_ ?_).trans ?_
      · rfl
      · exact ha
      · simp [xferTrace, State.emit, State.goto]

end

/-- Where SEQ goes after the delay of line `t` of command `i` (rules R141, R146, R151, R178, R210, R244). -/
def afterTxn (p : Params) (i : Instr) (l : Locals) : Txn → Seq
  | .txIdle => .run (opcode i) (.bus .txFlush .clear) l
  | .txFlush => .run (opcode i) (.bus .txBurst .clear) l
  | .txBurst => .run (opcode i) (.bus .txFire .clear) l
  | .txFire => .run (opcode i) .countRep l
  | .learnRx => .run (opcode i) (.bus .learnLen .clear) l
  | .learnLen => .run (opcode i) .recordLen { l with len := l.v }
  | .learnByte => .run (opcode i) .storeByte l
  | .learnIdle => .run (opcode i) (.bus .learnFlush .clear) l
  | .learnFlush => .run (opcode i) .attemptResult l
  | .initReset =>
    if p.configTable = [] then .run (opcode i) .finish l else .run (opcode i) .tableEntry { l with ci := 0 }
  | .initWrite =>
    if l.ci + 1 < p.configTable.length then .run (opcode i) .tableEntry { l with ci := l.ci + 1 }
    else .run (opcode i) .finish l
  | .cmd => .run (opcode i) .finish l

/-- The abort of a timed-out wait of command `i` (rules R266, R267). -/
def stopOf (i : Instr) : State → State := if i = .learn then State.abortLearn else State.abort

/-- Every line of every command that is a transaction is run by `busStep`. -/
theorem commandStep_bus {p : Params} {i : Instr} {t : Txn} {l : Locals} {x : Xfer} {b : BusPos} {s : State}
    (hx : xferOf p s.addr l i t = some x) (hs : s.seq = .run (opcode i) (.bus t b) l) :
    commandStep p i s = busStep p x (opcode i) t l (afterTxn p i l t) (stopOf i) b s := by
  cases i <;> cases t
  case init.initWrite =>
    obtain ⟨e, he, rfl⟩ := Option.map_eq_some_iff.mp hx
    simp only [commandStep, initStep, atOp_run (op := 0x7) hs, he]
    rfl
  all_goals first
    | exact nomatch (show (none : Option Xfer) = some x from hx)
    | (cases hx
       exact atOp_run hs)

/-- A transaction line, as `runFn_txn` takes it. -/
theorem commandStep_runsTxn (p : Params) (i : Instr) (t : Txn) (x : Xfer) (adr : FixtureAddress) :
    RunsTxn (commandStep p i) p x (opcode i) t adr (fun l => afterTxn p i l t) (fun _ => stopOf i)
      (fun l => xferOf p adr l i t = some x) := by
  intro b l s hok hs ha
  exact commandStep_bus (by rw [ha]; exact hok) hs

/-- Which transaction a line performs does not depend on the last value read. -/
theorem xferOf_v (p : Params) (adr : FixtureAddress) (l : Locals) (v : Byte) (i : Instr) (t : Txn) :
    xferOf p adr { l with v := v } i t = xferOf p adr l i t := by
  cases i <;> cases t <;> rfl

/-- A whole transaction line of any command (rule R136), no bound of samples reached. -/
theorem commandStep_txn {p : Params} {i : Instr} {t : Txn} {l : Locals} {x : Xfer} {s : State} {m : Nat}
    {bs : List Level} {i0 : Byte} {is rs : List Byte}
    (hx : xferOf p s.addr l i t = some x) (hs : s.seq = .run (opcode i) (.bus t .clear) l)
    (hb : s.env.brl = List.replicate m .asserted ++ .deasserted :: bs) (hr : s.env.rx = i0 :: (is ++ rs))
    (hl : is.length = x.payload.length) (ht : ∀ n, p.readyTimeout = some n → m < n) :
    runFn (commandStep p i) (m + 6 + 2 * x.payload.length) s = .next { s with
      wcnt := m + 1
      sel := .deasserted
      trace := s.trace ++ xferTrace p x (m + 1) i0 is
      env := { s.env with brl := bs, rx := rs }
      seq := afterTxn p i (recvLocals x l is) t } :=
  runFn_txn (commandStep_runsTxn p i t x s.addr) (fun l v h => by rw [xferOf_v]; exact h) hx hs rfl hb hr hl ht

/-- The same for the modelled instance's meanings. -/
theorem runInstr_txn {i : Instr} {t : Txn} {l : Locals} {x : Xfer} {s : State} {m : Nat} {bs : List Level} {i0 : Byte}
    {is rs : List Byte}
    (hx : xferOf sbfcParams s.addr l i t = some x) (hs : s.seq = .run (opcode i) (.bus t .clear) l)
    (hb : s.env.brl = List.replicate m .asserted ++ .deasserted :: bs) (hr : s.env.rx = i0 :: (is ++ rs))
    (hl : is.length = x.payload.length) (ht : ∀ n, sbfcParams.readyTimeout = some n → m < n) :
    runInstr i (m + 6 + 2 * x.payload.length) s = .next { s with
      wcnt := m + 1
      sel := .deasserted
      trace := s.trace ++ xferTrace sbfcParams x (m + 1) i0 is
      env := { s.env with brl := bs, rx := rs }
      seq := afterTxn sbfcParams i (recvLocals x l is) t } := by
  cases i <;> exact commandStep_txn hx hs hb hr hl ht

end Sys2Proof.Machine
end

