-- ==== Sys2Proof/Machine/Port.lean ====
section
/-! DEFINITION. The three parameters that no functional rule depends on, as views of the ports: the electrical level of
the select line (10_state.md rule R55), the order of the bits of a byte on the serial line (20_memory.md rule R77),
and the place of the window in the host's address space (rules R70, R83). -/

namespace Sys2Proof.Machine

/-- Whether the select line is electrically high (rule R55, P_SEL_ACTIVE_LOW). -/
def State.selHigh (p : Params) (s : State) : Bool :=
  match s.sel with
  | .asserted => !p.selActiveLow
  | .deasserted => p.selActiveLow

/-- The bits of a byte in the order they cross the serial line (rule R77, P_BIT_ORDER). -/
def lineBits (p : Params) (b : Byte) : List Bool :=
  let lsbFirst := (List.range 8).map fun i => b.getLsbD i
  match p.bitOrder with
  | .lsbFirst => lsbFirst
  | .msbFirst => lsbFirst.reverse

/-- The host address of a window offset (rules R70, R83, P_HOST_BASE). -/
def hostAddress (p : Params) (off : Nat) : Nat := p.hostBase + off

/-- The window offset of a host address, where it lies in the window. -/
def hostOffset (p : Params) (addr : Nat) : Option Nat :=
  if p.hostBase ≤ addr ∧ addr < p.hostBase + 32 then some (addr - p.hostBase) else none

end Sys2Proof.Machine
end

