-- ==== Sys2Proof/Tests/Slice0.lean ====
section
/-! SUPPORT. The model's own tests, each a named theorem: words written out bit by bit from 30_encoding.md rules R101 to
R103, an ill-formed term for every check of WellFormed.lean, one SEQ step of each command on a small state (expected
results from the rules cited and from 95_test_vectors.md), and for every obligation with hypotheses a state and operands
that meet all of them. -/

namespace Sys2Proof.Tests

open Sys2Proof Sys2Proof.Machine

/-- The reference configuration of 95_test_vectors.md. -/
def refParams : Params where
  tPost := 10
  tStrobe := 50
  tRxWait := 2000
  tReset := 100
  fifoAddr := 0x3F
  rxlenAddr := 0x3F
  burstMarker := 0x7F
  txLenByte := 0x06
  stbRx := 0x34
  stbTx := 0x35
  stbIdle := 0x36
  stbFrx := 0x3A
  stbFtx := 0x3B
  stbReset := 0x30
  configTable := [(0x0D, 0x5D), (0x0E, 0x93)]
  selActiveLow := true
  bitOrder := .msbFirst
  hostBase := 0

/-- A machine that runs opcode `op` at a position, everything else as after reset. -/
def running (op : BitVec 4) (pos : Pos) (l : Locals := {}) : State :=
  { State.reset with busy := true, seq := .run op pos l }

/-- The same with the address (0x12, 0x34) known. -/
def runningKnown (op : BitVec 4) (pos : Pos) (l : Locals := {}) : State :=
  { running op pos l with addr := { a := 0x12, b := 0x34 } }

/-- The state with the given draws listed. -/
def withDraws (brl : List Level) (rx : List Byte) (s : State) : State :=
  { s with env := { s.env with brl := brl, rx := rx } }

/-- The state with the given turns listed. -/
def withTurnList (ts : List Turn) (s : State) : State := { s with env := { s.env with turns := ts } }

/-- The next state, where there is one. -/
def stateOf : Out → Option State
  | .next s => some s
  | .fault _ => none
  | .refused _ => none

/-! Decoding: OP, RSV, F2, F1, F0 in binary (rules R101 to R104). -/

theorem test_decode_nop : decode 0b0000_0000_00000000_00000000_00000000 = .ok .nop := by decide
theorem test_decode_rdreg : decode 0b0001_0000_00000000_00000000_00111111 = .ok (.rdreg 0x3F) := by decide
theorem test_decode_wrreg : decode 0b0010_0000_00000000_01011101_00001101 = .ok (.wrreg 0x0D 0x5D) := by decide
theorem test_decode_strobe : decode 0b0011_0000_00000001_00000010_00110110 = .ok (.strobe 0x36 258) := by decide
theorem test_decode_tx : decode 0b0100_0000_00000000_00000011_00000010 = .ok (.tx .dim100 3) := by decide
theorem test_decode_learn : decode 0b0101_0000_00000000_00000000_00000000 = .ok .learn := by decide
theorem test_decode_setaddr : decode 0b0110_0000_00000000_00110100_00010010 = .ok (.setaddr 0x12 0x34) := by decide
theorem test_decode_init : decode 0b0111_0000_00000000_00000000_00000000 = .ok .init := by decide
theorem test_decode_reserved_opcode :
    decode 0b1000_0000_00000000_00000000_00000000 = .error .reservedOpcode ∧
    decode 0b1111_0000_00000000_00000000_00000000 = .error .reservedOpcode := by decide
theorem test_decode_reserved_bits : decode 0b0000_0001_00000000_00000000_00000000 = .error .reservedBits := by decide
theorem test_decode_must_be_zero :
    decode 0x00000001 = .error .mustBeZero ∧ decode 0x10000100 = .error .mustBeZero ∧
    decode 0x20010000 = .error .mustBeZero ∧ decode 0x40800000 = .error .mustBeZero ∧
    decode 0x50000001 = .error .mustBeZero ∧ decode 0x60010000 = .error .mustBeZero ∧
    decode 0x70000100 = .error .mustBeZero := by decide
theorem test_decode_address_bit7 :
    decode 0x10000080 = .error .addressBit7 ∧ decode 0x20000080 = .error .addressBit7 := by decide
theorem test_decode_selector_bits : decode 0x40000004 = .error .selectorBits := by decide
theorem test_decode_table_word :
    decodeTableWord 32 0x20005D0D = some (.wrreg 0x0D 0x5D) ∧ decodeTableWord 32 0x80000000 = none := by decide
theorem test_encode :
    encode (.strobe 0x36 258) = 0b0011_0000_00000001_00000010_00110110 ∧
    encode (.tx .pair 255) = 0b0100_0000_00000000_11111111_00000011 ∧
    encode (.setaddr 0x12 0x34) = 0b0110_0000_00000000_00110100_00010010 := by decide

/-! Every check of WellFormed.lean refuses an ill-formed term (rules R104, R107, R74, R70, R9). -/

theorem test_wf_opcode : wordOpcodeOk 0x80000000 = false ∧ legalWord 0x80000000 = false := by decide
theorem test_wf_reserved : wordReservedOk 0x01000000 = false ∧ legalWord 0x01000000 = false := by decide
theorem test_wf_zero_fields :
    wordZeroFieldsOk 0x00000001 = false ∧ wordZeroFieldsOk 0x10000100 = false ∧ wordZeroFieldsOk 0x20010000 = false ∧
    wordZeroFieldsOk 0x40010000 = false ∧ wordZeroFieldsOk 0x50010000 = false ∧ wordZeroFieldsOk 0x60800000 = false ∧
    wordZeroFieldsOk 0x70000001 = false ∧ legalWord 0x00000001 = false := by decide
theorem test_wf_address : wordAddressOk 0x10000080 = false ∧ wordAddressOk 0x200000FF = false := by decide
theorem test_wf_selector : wordSelectorOk 0x40000004 = false ∧ legalWord 0x40000004 = false := by decide
theorem test_wf_legal_words : legalWord 0x30FFFFFF = true ∧ legalWord 0x4000FF03 = true ∧ legalWord 0 = true := by decide
theorem test_wf_asm_line :
    (AsmLine.rdreg 128).inRange = false ∧ (AsmLine.wrreg 127 256).inRange = false ∧
    (AsmLine.strobe 256 0).inRange = false ∧ (AsmLine.strobe 0 65536).inRange = false ∧
    (AsmLine.tx .off 256).inRange = false ∧ (AsmLine.setaddr 0 256).inRange = false ∧
    (AsmLine.turnoff (some 256)).inRange = false ∧ (AsmLine.turnon50 (some 256)).inRange = false ∧
    (AsmLine.turnon100 (some 256)).inRange = false ∧ (AsmLine.transmit .pair (some 256)).inRange = false ∧
    (AsmLine.wrfifo 256).inRange = false := by decide
theorem test_wf_access_shape :
    (HostAccess.read 0x04 1).aligned = false ∧ (HostAccess.read 0x05 4).aligned = false ∧
    (HostAccess.write 0x00 2 0).aligned = false ∧ (HostAccess.read 0x04 4).aligned = true := by decide
theorem test_wf_access_window :
    (HostAccess.read 0x20 4).inWindow = false ∧ (HostAccess.read 0x1C 4).inWindow = true := by decide
theorem test_wf_params :
    refParams.legal = true ∧ { refParams with learnMaxAttempts := 0 }.legal = false ∧
    { refParams with learnMaxAttempts := 256 }.legal = false ∧ { refParams with tByte := 0 }.legal = false ∧
    { refParams with tTx := 254 }.legal = false ∧ { refParams with readyTimeout := some 0 }.legal = false := by decide
theorem test_wf_params_table : { refParams with configTable := List.replicate 256 (0, 0) }.legal = false := by
  simp only [Params.legal, List.length_replicate]
  decide

/-! The assembler (rules R107, R250). -/

theorem test_asm_text :
    assemble refParams ['w', 'r', 'r', 'e', 'g', ' ', '0', 'x', '0', 'D', ',', ' ', '9', '3'] = some 0x20005D0D ∧
    assemble refParams ['t', 'x', ' ', 'd', 'i', 'm', '5', '0', ',', ' ', '3'] = some 0x40000301 ∧
    assemble refParams ['r', 'd', 'r', 'e', 'g', ' ', '1', '2', '8'] = none := by decide
theorem test_asm_pseudo :
    asmWord refParams (.turnon50 none) = some 0x40003201 ∧ asmWord refParams (.transmit .pair none) = some 0x40000A03 ∧
    asmWord refParams .srx = some 0x3007D034 ∧ asmWord { refParams with tRxWait := 65536 } .srx = none := by decide

/-! One SEQ step of each command (95_test_vectors.md: B, L1, T, S, I and N vectors). -/

theorem test_nop_line :
    exec .nop (running 0x0 .start) = .next { State.reset with done := .ok } := rfl
theorem test_rdreg_header :
    (stateOf (rdregStep refParams 0x3F (withDraws [] [0x0F, 0x06] (running 0x1 (.bus .cmd .header))))).map (·.trace) =
      some [.x 0xBF 0x0F] := by decide
theorem test_rdreg_finish :
    (stateOf (exec (.rdreg 0x3F) (running 0x1 .finish { v := 0x06 }))).map (fun s => (s.resultWord, s.statusWord)) =
      some (6, 2) := by decide
theorem test_wrreg_payload :
    (stateOf (wrregStep refParams 0x0D 0x5D (withDraws [] [0xA5] (running 0x2 (.bus .cmd (.payload 0)))))).map
      (fun s => (s.trace, s.seq)) = some ([.x 0x5D 0xA5], .run 0x2 (.bus .cmd .deselect) {}) := by decide
theorem test_wrreg_third_sample :
    (stateOf (wrregStep refParams 0x0D 0x5D
      { withDraws [Level.deasserted] [] (running 0x2 (.bus .cmd .sample)) with wcnt := 2 })).map (·.trace) =
      some [.wait 3] := by decide
theorem test_strobe_delay :
    (stateOf (strobeStep refParams 0x36 100 (running 0x3 (.bus .cmd .delay)))).map (fun s => (s.trace, s.seq)) =
      some ([.dly 100], .run 0x3 .finish {}) := by decide
theorem test_strobe_timeout :
    (stateOf (strobeStep { refParams with readyTimeout := some 1 } 0x36 100
      (withDraws [Level.asserted] [] (running 0x3 (.bus .cmd .sample))))).map (fun s => (s.statusWord, s.trace)) =
      some (0x0000000C, []) := by decide
theorem test_tx_wire_byte :
    (stateOf (txStep refParams .dim50 3 (withDraws [] [0xEE] (runningKnown 0x4 (.bus .txBurst (.payload 5)) { rep := 1 })))).map
      (·.trace) = some [.x 0x02 0xEE] := by decide
theorem test_tx_rejected :
    (stateOf (exec (.tx .dim50 3) (running 0x4 .precondition))).map (·.statusWord) = some 0x00000004 := by decide
theorem test_learn_parse :
    (stateOf (exec .learn { running 0x5 .parse { att := 1, len := 7 } with
      lstate := .listening
      attempts := 1
      fb := #v[0x55, 0x01, 0x2A, 0x7F, 0xCC, 0xAA, 0xFF, 0x00] })).map (fun s => (s.addrWord, s.statusWord)) =
      some (0x00007F2A, 0x00000161) := by decide
theorem test_learn_store :
    (stateOf (exec .learn (running 0x5 .storeByte { len := 8, j := 4, v := 0x9A }))).map
      (fun s => (s.rxbuf0Word, s.rxbuf1Word, s.seq)) =
      some (0, 0x0000009A, .run 0x5 (.bus .learnByte .clear) { len := 8, j := 5, v := 0x9A }) := by decide
theorem test_setaddr_write :
    (stateOf (exec (.setaddr 0x12 0x34) (running 0x6 .setup))).map (fun s => (s.addrWord, s.addrValid)) =
      some (0x00003412, true) := by decide
theorem test_setaddr_sentinel :
    (stateOf (exec (.setaddr 0 0) (runningKnown 0x6 .precondition))).map (fun s => (s.addrWord, s.statusWord)) =
      some (0x00003412, 0x00000044) := by decide
theorem test_init_second_entry :
    (stateOf (initStep refParams (withDraws [] [0xEE] (running 0x7 (.bus .initWrite .header) { ci := 1 })))).map
      (·.trace) = some [.x 0x0E 0xEE] := by decide
theorem test_init_after_reset_strobe :
    (stateOf (initStep refParams (running 0x7 (.bus .initReset .delay)))).map (fun s => (s.trace, s.seq)) =
      some ([.dly 100], .run 0x7 .tableEntry {}) := by decide

/-! The host side (rules R36, R42, R72, R74, R290). -/

theorem test_cmd_accept :
    step (withTurnList [.host (.write 0x00 4 0x60003412)] State.reset) =
      .next { State.reset with opl := 0x60003412, busy := true, seq := .run 0x6 .start {} } := rfl
theorem test_reserved_slot :
    (stateOf (step (withTurnList [.host (.read 0x1C 4)] (runningKnown 0x0 .finish)))).map (·.env.reads) =
      some [0] := by decide
theorem test_rst_mid_burst :
    (stateOf (step (withTurnList [.rst true] { runningKnown 0x4 (.bus .txBurst (.gap 2)) with sel := Level.asserted }))).map
      (fun s => (s.trace, s.statusWord, s.addrWord, s.env.rst)) = some ([.desel], 0, 0, true) := by decide
theorem test_port_views :
    State.selHigh refParams State.reset = true ∧
    lineBits refParams 0x55 = [false, true, false, true, false, true, false, true] ∧
    hostOffset { refParams with hostBase := 0x1000 } 0x1004 = some 4 ∧
    hostOffset { refParams with hostBase := 0x1000 } 0x1020 = none := by decide

/-! Witnesses: for every obligation with hypotheses, a state and operands that meet all of them together. -/

/-- A bound of readiness samples, where there is one, lets the first sample be taken (rule R9). -/
theorem timeout_pos : ∀ n, sbfcParams.readyTimeout = some n → 0 < n := by
  intro n h
  have hl := sbfcParams_legal
  simp only [Params.legal, Bool.and_eq_true, decide_eq_true_eq, h] at hl
  rcases Nat.eq_zero_or_pos n with h0 | h0
  · exact absurd (by rw [h0]) hl.2
  · exact h0

/-- The attempt budget is at least 1 (rule R9). -/
theorem attempts_pos : 0 < sbfcParams.learnMaxAttempts := by
  have hl := sbfcParams_legal
  simp only [Params.legal, Bool.and_eq_true, decide_eq_true_eq] at hl
  exact hl.1.1.1.1.1

theorem witness_DecodedWordReencodes : decode 0x60003412 = .ok (.setaddr 0x12 0x34) := by decide

theorem witness_AssemblerMakesLegalWords :
    asmWord refParams (.strobe 0xFF 0xFFFF) = some 0x30FFFFFF ∧ asmWord refParams (.replay .off) = some 0x40000100 ∧
    (CommandCode.dim100, (2 : Word)) ∈ [(CommandCode.off, (0 : Word)), (.dim50, 1), (.dim100, 2), (.pair, 3)] ∧
    (CommandCode.pair, (3 : Word)) ∈ [(CommandCode.off, (0 : Word)), (.dim50, 1), (.dim100, 2), (.pair, 3)] := by
  decide

theorem witness_PseudoInstructionsExpand :
    asmCommand refParams (.turnoff (some 255)) = some (.tx .off 255) ∧
    asmCommand { refParams with tTx := 65536 } .stx = none ∧
    asmCommand { refParams with tTx := 65535 } .stx = some (.strobe 0x35 65535) := by decide

/-- The first and the last code of DONE and of LSTATE. -/
theorem witness_WindowWords :
    (State.reset.done, (0 : BitVec 3)) ∈ [(Done.none, (0 : BitVec 3)), (.ok, 1), (.rejected, 2), (.illegal, 3), (.found, 4),
      (.exhausted, 5), (.notResponding, 6)] ∧
    (Done.notResponding, (6 : BitVec 3)) ∈ [(Done.none, (0 : BitVec 3)), (.ok, 1), (.rejected, 2), (.illegal, 3),
      (.found, 4), (.exhausted, 5), (.notResponding, 6)] ∧
    (State.reset.lstate, (0 : BitVec 2)) ∈ [(LState.idle, (0 : BitVec 2)), (.listening, 1), (.found, 2), (.exhausted, 3)] ∧
    (LState.exhausted, (3 : BitVec 2)) ∈ [(LState.idle, (0 : BitVec 2)), (.listening, 1), (.found, 2),
      (.exhausted, 3)] := by decide

theorem witness_StepRunsDecodedCommand :
    let s := State.reset.accept 0x1000003F
    s.env.rst = false ∧ s.seq = .run 0x1 .start {} ∧ decode s.opl = .ok (.rdreg 0x3F) ∧ s.env.turns = [] ∧
    (withTurnList [.seq] s).env.turns = [.seq] := by decide

theorem witness_AcceptedWordRunsNext : State.reset.env.turns = [] := rfl

theorem witness_IllegalWordFinishesIllegal :
    let s := State.reset.accept 0x41000301
    s.env.rst = false ∧ s.env.turns = [] ∧ (withTurnList [.seq] s).env.turns = [.seq] ∧ s.seq = .run 0x4 .start {} ∧
    decode s.opl = .error .reservedBits := by decide

theorem witness_CmdAccess :
    State.reset.env.rst = false ∧ State.reset.busy = false ∧
    (withTurnList [.host (.write 0x00 4 5)] State.reset).env.turns = [.host (.write 0x00 4 5)] ∧
    (withTurnList [.host (.write 0x00 4 5)] (running 0x0 .start)).busy = true ∧
    (withTurnList [.host (.read 0x00 4)] State.reset).env.turns = [.host (.read 0x00 4)] := by decide

theorem witness_ReadsAreSideEffectFreeAndOtherWritesIgnored :
    (0x1C % 4 = 0 ∧ 0x1C < 32 ∧ (0x1C : Nat) ≠ 0) ∧ (0 % 4 = 0 ∧ 0 < 32) ∧
    (withTurnList [.host (.read 0x1C 4)] State.reset).env.turns = [.host (.read 0x1C 4)] ∧
    (withTurnList [.host (.write 0x1C 4 1)] State.reset).env.turns = [.host (.write 0x1C 4 1)] := by decide

theorem witness_MisshapenAccessRefused :
    stateOf (step (withTurnList [.host (.read 0x04 1)] State.reset)) = none ∧
    stateOf (step (withTurnList [.host (.write 0x02 4 0)] State.reset)) = none ∧
    ((1 : Nat) ≠ 4 ∧ 0x02 % 4 ≠ 0) := by decide

theorem witness_RstResetsEverything :
    (withTurnList [.rst true] (running 0x0 .start)).env.turns = [.rst true] ∧
    (let s := State.resetWith [.sel, .desel] { turns := [.seq], rst := true }
     s.env.rst = true ∧ s = State.resetWith s.trace s.env ∧
       stateOf (step s) = some (State.resetWith [.sel, .desel] { rst := true })) := by decide

theorem witness_FinishLineCompletes :
    (running 0x0 .start).seq = .run 0x0 .start {} ∧ (running 0x1 .finish { v := 9 }).seq = .run 0x1 .finish { v := 9 } ∧
    (running 0x2 .finish).seq = .run 0x2 .finish {} ∧ (running 0x3 .finish).seq = .run 0x3 .finish {} ∧
    (running 0x4 .finish).seq = .run 0x4 .finish {} ∧ (running 0x5 .finish).seq = .run 0x5 .finish {} ∧
    (running 0x6 .finish).seq = .run 0x6 .finish {} ∧ (running 0x7 .finish).seq = .run 0x7 .finish {} := by decide

theorem witness_NopCompletes : (running 0x0 .start).seq = .run 0x0 .start {} := rfl

/-- Also of WrregCompletes and StrobeCompletes, with their opcode and with one received byte the less. -/
theorem witness_RdregCompletes :
    let s := withDraws [Level.deasserted] [0x0F, 0x06] (running 0x1 .start)
    s.seq = .run 0x1 .start {} ∧ s.env.brl = List.replicate 0 Level.asserted ++ Level.deasserted :: [] ∧
    s.env.rx = 0x0F :: 0x06 :: [] ∧ ∀ n, sbfcParams.readyTimeout = some n → 0 < n :=
  ⟨rfl, rfl, rfl, timeout_pos⟩

theorem witness_WrregCompletes :
    let s := withDraws [Level.deasserted] [0x0F, 0x06] (running 0x2 .start)
    s.seq = .run 0x2 .start {} ∧ s.env.brl = List.replicate 0 Level.asserted ++ Level.deasserted :: [] ∧
    s.env.rx = 0x0F :: 0x06 :: [] ∧ ∀ n, sbfcParams.readyTimeout = some n → 0 < n :=
  ⟨rfl, rfl, rfl, timeout_pos⟩

theorem witness_StrobeCompletes :
    let s := withDraws [Level.deasserted] [0x0F] (running 0x3 .start)
    s.seq = .run 0x3 .start {} ∧ s.env.brl = List.replicate 0 Level.asserted ++ Level.deasserted :: [] ∧
    s.env.rx = 0x0F :: [] ∧ ∀ n, sbfcParams.readyTimeout = some n → 0 < n :=
  ⟨rfl, rfl, rfl, timeout_pos⟩

theorem witness_OnlyRdregFinishWritesResult :
    let s := running 0x1 .finish { v := 6 }
    s.seq = .run 0x1 .finish { v := 6 } ∧ ∃ t, exec (.rdreg 0x3F) s = .next t ∧ t.resultWord ≠ s.resultWord :=
  ⟨rfl, _, rfl, by decide⟩

theorem witness_RejectedWritesNothingElse :
    (running 0x4 .start).seq = .run 0x4 .start {} ∧ (running 0x4 .start).addrValid = false ∧
    (runningKnown 0x6 .start).seq = .run 0x6 .start {} := by decide

/-- Also of TxSendsIdenticalFrames with a count of 0. -/
theorem witness_TxZeroRepetitions :
    (runningKnown 0x4 .start).seq = .run 0x4 .start {} ∧ (runningKnown 0x4 .start).addrValid = true := by decide

/-- The wire byte of every command (rule R103). -/
def wireTable : List (CommandCode × Byte) := [(.off, 0x01), (.dim50, 0x02), (.dim100, 0x03), (.pair, 0xFF)]

/-- Waits that are all ready at their first sample are allowed under every legal configuration. -/
theorem allows_ready (n : Nat) : waitsAllowed sbfcParams (List.replicate n 0) := by
  intro b hb m hm
  rw [(List.mem_replicate.mp hm).2]
  exact timeout_pos b hb

theorem witness_TxRepetitionTrace :
    let s := withDraws [Level.deasserted, Level.deasserted, Level.deasserted, Level.deasserted] (List.replicate 12 0xEE)
      (runningKnown 0x4 (.bus .txIdle .clear) { rep := 1 })
    (∀ k w, (k, w) ∈ wireTable → (k, w) ∈ [(CommandCode.off, (0x01 : Byte)), (.dim50, 0x02), (.dim100, 0x03),
      (.pair, 0xFF)]) ∧
    s.seq = .run 0x4 (.bus .txIdle .clear) { rep := 1 } ∧ (List.replicate 8 (0xEE : Byte)).length = 8 ∧
    s.env.brl = List.replicate 0 Level.asserted ++ Level.deasserted ::
      (List.replicate 0 Level.asserted ++ Level.deasserted ::
      (List.replicate 0 Level.asserted ++ Level.deasserted ::
      (List.replicate 0 Level.asserted ++ Level.deasserted :: []))) ∧
    s.env.rx = 0xEE :: 0xEE :: 0xEE :: (List.replicate 8 0xEE ++ 0xEE :: []) ∧
    (∀ b, sbfcParams.readyTimeout = some b → 0 < b ∧ 0 < b ∧ 0 < b ∧ 0 < b) :=
  ⟨fun _ _ h => h, rfl, rfl, rfl, rfl, fun b h => ⟨timeout_pos b h, timeout_pos b h, timeout_pos b h, timeout_pos b h⟩⟩

/-- For every count, so for the boundary counts 0, 1 and 255. -/
theorem witness_TxSendsIdenticalFrames (n : Byte) :
    let ws := List.replicate (4 * n.toNat) 0
    let is : List Byte := List.replicate (12 * n.toNat) 0xEE
    let s := withDraws (waitDraws ws ++ []) (is ++ []) (runningKnown 0x4 .start)
    (CommandCode.pair, (0xFF : Byte)) ∈ [(CommandCode.off, (0x01 : Byte)), (.dim50, 0x02), (.dim100, 0x03),
      (.pair, 0xFF)] ∧
    s.seq = .run 0x4 .start {} ∧ s.addrValid = true ∧ is.length = 12 * n.toNat ∧ ws.length = 4 * n.toNat ∧
    s.env.brl = waitDraws ws ++ [] ∧ s.env.rx = is ++ [] ∧ waitsAllowed sbfcParams ws :=
  ⟨by decide, rfl, rfl, List.length_replicate, List.length_replicate, rfl, rfl, allows_ready _⟩

theorem witness_SetaddrStoresPair :
    ¬ ((0 : Byte) = 0 ∧ (1 : Byte) = 0) ∧ ¬ ((1 : Byte) = 0 ∧ (0 : Byte) = 0) ∧
    (runningKnown 0x6 .setup).seq = .run 0x6 .setup {} ∧ (runningKnown 0x6 .start).seq = .run 0x6 .start {} := by decide

theorem witness_SetaddrSentinelLeavesAddr :
    (runningKnown 0x6 .start).seq = .run 0x6 .start {} ∧ (runningKnown 0x6 .start).addrValid = true := by decide

theorem witness_InitWritesTheTable :
    let ws := List.replicate sbfcParams.configTable.length 0
    let is : List (Byte × Byte) := List.replicate sbfcParams.configTable.length (0xEE, 0xEE)
    let s := withDraws (waitDraws (0 :: ws) ++ []) (0xEE :: (is.flatMap (fun i => [i.1, i.2]) ++ [])) (running 0x7 .start)
    s.seq = .run 0x7 .start {} ∧ ws.length = sbfcParams.configTable.length ∧
    is.length = sbfcParams.configTable.length ∧ s.env.brl = waitDraws (0 :: ws) ++ [] ∧
    s.env.rx = 0xEE :: (is.flatMap (fun i => [i.1, i.2]) ++ []) ∧ waitsAllowed sbfcParams (0 :: ws) :=
  ⟨rfl, List.length_replicate, List.length_replicate, rfl, rfl, allows_ready (sbfcParams.configTable.length + 1)⟩

theorem witness_LearnWithKnownAddressDoesNothing :
    (runningKnown 0x5 .start).seq = .run 0x5 .start {} ∧ (runningKnown 0x5 .start).addrValid = true := by decide

theorem witness_LearnStartsListening :
    (running 0x5 .setup).addrValid = false ∧ (running 0x5 .setup).seq = .run 0x5 .setup {} ∧
    (running 0x5 .start).seq = .run 0x5 .start {} := by decide

/-- The four boundary lengths 0, 1, 9 and 255 of the frames that are not read. -/
theorem witness_AttemptWithoutFrame :
    (∀ len ∈ [(0 : Byte), 1, 9, 255],
      let s := withDraws [Level.deasserted, Level.deasserted, Level.deasserted, Level.deasserted]
        [0xEE, 0xEE, len, 0xEE, 0xEE] (running 0x5 .attempt { att := 1 })
      s.seq = .run 0x5 .attempt { att := 1 } ∧ (len.toNat ≤ 1 ∨ 8 < len.toNat) ∧
      s.env.brl = List.replicate 0 Level.asserted ++ Level.deasserted ::
        (List.replicate 0 Level.asserted ++ Level.deasserted ::
        (List.replicate 0 Level.asserted ++ Level.deasserted ::
        (List.replicate 0 Level.asserted ++ Level.deasserted :: []))) ∧
      s.env.rx = 0xEE :: 0xEE :: len :: 0xEE :: 0xEE :: []) ∧
    (∀ b, sbfcParams.readyTimeout = some b → 0 < b ∧ 0 < b ∧ 0 < b ∧ 0 < b) :=
  ⟨by decide, fun b h => ⟨timeout_pos b h, timeout_pos b h, timeout_pos b h, timeout_pos b h⟩⟩

/-- The two boundary lengths 2 and 8, the longer frame with a match. -/
theorem witness_AttemptReadsAndParsesFrame :
    (∀ f ∈ [[(0x55 : Byte), 0x01], [0x00, 0x00, 0x55, 0x01, 0x2A, 0x7F, 0xCC, 0xAA]],
      let ws := List.replicate (4 + f.length) 0
      let hs : List Byte := List.replicate f.length 0xEE
      let s := withDraws (waitDraws ws ++ [])
        (0xEE :: 0xEE :: BitVec.ofNat 8 f.length :: ((hs.zip f).flatMap (fun x => [x.1, x.2]) ++ 0xEE :: 0xEE :: []))
        (running 0x5 .attempt { att := 1 })
      s.seq = .run 0x5 .attempt { att := 1 } ∧ 2 ≤ f.length ∧ f.length ≤ 8 ∧ hs.length = f.length ∧
      ws.length = 4 + f.length ∧ s.env.brl = waitDraws ws ++ [] ∧
      s.env.rx = 0xEE :: 0xEE :: BitVec.ofNat 8 f.length ::
        ((hs.zip f).flatMap (fun x => [x.1, x.2]) ++ 0xEE :: 0xEE :: [])) ∧
    ∀ n, waitsAllowed sbfcParams (List.replicate n 0) :=
  ⟨by decide, allows_ready⟩

/-- The three outcomes: a match, a further attempt (boundary att = 0), the budget used up. -/
theorem witness_LearnOutcomes :
    ((running 0x5 .checkMatch { att := 1, m := true }).seq = .run 0x5 .checkMatch { att := 1, m := true }) ∧
    (0 < sbfcParams.learnMaxAttempts) ∧
    ¬ sbfcParams.learnMaxAttempts < sbfcParams.learnMaxAttempts :=
  ⟨rfl, attempts_pos, Nat.lt_irrefl _⟩

theorem witness_LearnExhaustsAfterAllAttempts :
    let ws := List.replicate (4 * sbfcParams.learnMaxAttempts) 0
    let x : Byte × Byte × Byte × Byte × Byte := (0xEE, 0xEE, 0x09, 0xEE, 0xEE)
    let xs := List.replicate sbfcParams.learnMaxAttempts x
    let s := withDraws (waitDraws ws ++ [])
      (xs.flatMap (fun x => [x.1, x.2.1, x.2.2.1, x.2.2.2.1, x.2.2.2.2]) ++ []) (running 0x5 .start)
    s.seq = .run 0x5 .start {} ∧ s.addrValid = false ∧ xs.length = sbfcParams.learnMaxAttempts ∧
    xs.getLast? = some x ∧ (∀ x ∈ xs, x.2.2.1.toNat ≤ 1 ∨ 8 < x.2.2.1.toNat) ∧
    ws.length = 4 * sbfcParams.learnMaxAttempts ∧ s.env.brl = waitDraws ws ++ [] ∧
    s.env.rx = xs.flatMap (fun x => [x.1, x.2.1, x.2.2.1, x.2.2.2.1, x.2.2.2.2]) ++ [] ∧ waitsAllowed sbfcParams ws := by
  refine ⟨rfl, rfl, List.length_replicate, ?_, fun x hx => ?_, List.length_replicate, rfl, rfl, allows_ready _⟩
  · rw [List.getLast?_replicate, if_neg (Nat.pos_iff_ne_zero.mp attempts_pos)]
  · rw [(List.mem_replicate.mp hx).2]
    decide

theorem witness_TimedOutWaitAborts :
    ∀ i ∈ [Instr.learn, .init],
      let p := { refParams with readyTimeout := some 1 }
      let t := if i = .learn then Txn.learnFlush else .initReset
      let s := withDraws [Level.asserted] [] { running (opcode i) (.bus t .sample) { m := true } with lstate := .found }
      (xferOf p s.addr { m := true } i t).isSome = true ∧
      s.seq = .run (opcode i) (.bus t .sample) { m := true } ∧ s.env.brl = Level.asserted :: [] ∧
      p.readyTimeout = some (s.wcnt + 1) := by
  decide

theorem witness_EndlessWaitWithoutTimeout :
    let s := withDraws (List.replicate 3 Level.asserted ++ []) [] (running 0x3 (.bus .cmd .sample))
    refParams.readyTimeout = none ∧ xferOf refParams s.addr {} (.strobe 0x36 5) .cmd = some (strobeXfer 0x36 5) ∧
    s.seq = .run (opcode (.strobe 0x36 5)) (.bus .cmd .sample) {} ∧
    s.env.brl = List.replicate 3 Level.asserted ++ [] :=
  ⟨rfl, rfl, rfl, rfl⟩

/-- Every command's first line answers a next state. -/
theorem witness_CommandStepFrame :
    ∀ i ∈ [Instr.nop, .rdreg 1, .wrreg 1 2, .strobe 3 4, .tx .off 5, .learn, .setaddr 6 7, .init],
      ∃ t, exec i (running (opcode i) .start) = .next t := by
  intro i hi
  simp only [List.mem_cons, List.not_mem_nil, or_false] at hi
  rcases hi with rfl | rfl | rfl | rfl | rfl | rfl | rfl | rfl <;> exact ⟨_, rfl⟩

/-- SETADDR before its write line, with a pair other than the sentinel, meets the invariant. -/
theorem inv_setaddr_write : { running 0x6 .setup with opl := 0x60003412 }.Inv := by
  refine ⟨⟨fun _ h => (by cases h), fun _ => rfl⟩, by decide, Nat.zero_le _, ?_, fun h => (by cases h),
    rfl, by decide, rfl, .inr ⟨.setaddr 0x12 0x34, by decide, ?_⟩⟩
  · intro j hj hne
    exfalso
    apply hne
    simp [running, State.reset, State.resetWith]
  · exact (by decide : isAddress { a := 0x12, b := 0x34 } = true)

/-- Three writers of ADDR: reset, SETADDR's write line, LEARN's parse step. -/
theorem witness_AddrHasTwoWriters :
    (∃ t, step (withTurnList [.rst true] (runningKnown 0x0 .start)) = .next t ∧
      t.addr ≠ (runningKnown 0x0 .start).addr) ∧
    (∃ t, step { running 0x6 .setup with opl := 0x60003412 } = .next t ∧ t.addr ≠ (running 0x6 .setup).addr) ∧
    { running 0x6 .setup with opl := 0x60003412 }.Inv ∧
    (∃ t, step { running 0x5 .parse { len := 7 } with
      opl := 0x50000000
      fb := #v[0x55, 0x01, 0x2A, 0x7F, 0xCC, 0xAA, 0xFF, 0x00] } = .next t ∧ t.addr ≠ { a := 0, b := 0 }) :=
  ⟨⟨_, rfl, by decide⟩, ⟨_, rfl, by decide⟩, inv_setaddr_write, ⟨_, rfl, by decide⟩⟩

/-- The reset state with an address known meets the invariant. -/
theorem inv_known : { State.reset with addr := { a := 0, b := 1 } }.Inv := by
  refine ⟨by decide, by decide, Nat.zero_le _, ?_, fun h => (by cases h), rfl⟩
  intro j hj hne
  exfalso
  apply hne
  simp [State.reset, State.resetWith]

theorem witness_AddrValidUntilReset :
    let s : State := { State.reset with addr := { a := 0, b := 1 } }
    s.Inv ∧ (s.readReg 0x04).extractLsb' 6 1 = 1 ∧ (∃ t, step s = .next t) ∧ ∀ on ts, s.env.turns ≠ .rst on :: ts :=
  ⟨inv_known, by decide, ⟨_, rfl⟩, fun _ _ h => by cases h⟩

/-- OVERRUN: cleared by reset, set by a refused write. -/
theorem witness_OverrunSticky :
    (let s := withTurnList [.rst true] { running 0x0 .start with overrun := true }
     ∃ t, step s = .next t ∧ s.overrun = true ∧ t.overrun = false) ∧
    (let s := withTurnList [.host (.write 0x00 4 0)] (running 0x0 .start)
     ∃ t, step s = .next t ∧ s.overrun = false ∧ t.overrun = true ∧ s.busy = true ∧ s.env.rst = false) :=
  ⟨⟨_, rfl, rfl, rfl⟩, ⟨_, rfl, rfl, rfl, rfl, rfl⟩⟩

theorem witness_HostAccessDoesNotDisturbCommand :
    (running 0x0 .start).busy = true ∧ ∃ t, exec .nop (running 0x0 .start) = .next t := ⟨rfl, _, rfl⟩

theorem witness_TransmittedFrameParsesBack :
    ¬ ((0 : Byte) = 0 ∧ (0x80 : Byte) = 0) ∧
    (CommandCode.dim50, (0x02 : Byte)) ∈ [(CommandCode.off, (0x01 : Byte)), (.dim50, 0x02), (.dim100, 0x03),
      (.pair, 0xFF)] := by decide

/-- Every clause, its hypotheses together: a legal configuration with the least delays, one state with the draws for
each command, and for the frame lengths 0, 1, 9 and 255 that are not read and 2 and 8 that are. -/
theorem witness_MinimumDurations :
    let p := { refParams with tByte := 1, tTx := 255, tPost := 0, tStrobe := 0 }
    let mk (op : BitVec 4) (pos : Pos) (l : Locals) (ws : List Nat) (is : List Byte) : State :=
      withDraws (waitDraws ws ++ []) (is ++ []) (running op pos l)
    p.legal = true ∧ (∀ n, waitsAllowed p (List.replicate n 0)) ∧
    (∀ op pos l n is, (mk op pos l (List.replicate n 0) is).seq = .run op pos l ∧
      (mk op pos l (List.replicate n 0) is).env.brl = waitDraws (List.replicate n 0) ++ [] ∧
      (mk op pos l (List.replicate n 0) is).env.rx = is ++ [] ∧ (List.replicate n 0).length = n) ∧
    (∀ len ∈ [(0 : Byte), 1, 9, 255], len.toNat ≤ 1 ∨ 8 < len.toNat) ∧
    (∀ f ∈ [[(0x55 : Byte), 0x01], [0x55, 0x01, 0x2A, 0x7F, 0xCC, 0xAA, 0xFF, 0x00]], 2 ≤ f.length ∧ f.length ≤ 8) :=
  ⟨by decide, fun _ b hb => (by cases hb), fun _ _ _ _ _ => ⟨rfl, rfl, rfl, List.length_replicate⟩, by decide,
    by decide⟩

/-- A machine that has just accepted a word meets the invariant. -/
theorem inv_accepted (w : Word) (e : Env) (he : e.rst = false) : ((State.resetWith [] e).accept w).Inv := by
  refine ⟨⟨fun _ h => (by cases h), fun _ => rfl⟩, fun h => (by cases h), Nat.zero_le _, ?_, fun h => ?_,
    rfl, rfl, rfl, .inl rfl⟩
  · intro j hj hne
    exfalso
    apply hne
    simp [State.accept, State.resetWith]
  · rw [show ((State.resetWith [] e).accept w).env.rst = e.rst from rfl, he] at h
    cases h

theorem witness_StepKeepsInv : (State.reset.accept 0x50000000).Inv ∧ ∃ t, step (State.reset.accept 0x50000000) = .next t :=
  ⟨inv_accepted _ _ rfl, _, rfl⟩

theorem witness_InvNeverFaults :
    ((State.resetWith [] { turns := [.host (.read 0x20 4)] }).accept 0).Inv ∧
    step ((State.resetWith [] { turns := [.host (.read 0x20 4)] }).accept 0) = .refused .outsideWindow :=
  ⟨inv_accepted _ _ rfl, rfl⟩

/-- Every command, just accepted. -/
theorem witness_RunningCommandAlwaysSteps :
    ∀ i ∈ [Instr.nop, .rdreg 0x7F, .wrreg 0x7F 0xFF, .strobe 0xFF 0xFFFF, .tx .pair 0xFF, .learn, .setaddr 0xFF 0xFF,
        .init],
      let s := State.reset.accept (encode i)
      s.Inv ∧ s.seq = .run (fieldOp (encode i)) .start {} ∧ decode s.opl = .ok i := by
  intro i hi
  refine ⟨inv_accepted _ _ rfl, rfl, ?_⟩
  simp only [List.mem_cons, List.not_mem_nil, or_false] at hi
  rcases hi with rfl | rfl | rfl | rfl | rfl | rfl | rfl | rfl <;> decide

theorem witness_EveryOperationEnds :
    let s := (State.resetWith [] { brl := List.replicate 3060 Level.deasserted }).accept 0x50000000
    s.Inv ∧ s.seq ≠ .idle ∧ s.env.rst = false ∧ s.env.turns = [] ∧
    3060 ≤ (s.env.brl.filter (fun b => decide (b = Level.deasserted))).length := by
  refine ⟨inv_accepted _ _ rfl, fun h => (by cases h), rfl, rfl, ?_⟩
  simp only [State.accept, State.resetWith, List.filter_replicate, decide_true, if_true, List.length_replicate, le_refl]

end Sys2Proof.Tests
end

section
/-! The last line of every command (00_scope.md rule R14, 40_bus_primitives.md rule R143): one equation per command, each
read off at that command's last position by `atOp_run` and stated through `State.finish`. -/

namespace Sys2Proof.Machine

variable {s : State} {l : Locals}

/-- NOP's only line (rule R248) is its first. -/
theorem exec_nop_at_start (hs : s.seq = .run 0x0 .start l) : exec .nop s = .next (s.finish .ok) :=
  atOp_run hs

/-- RESULT is written in the finish step (rule R143). -/
theorem exec_rdreg_at_finish (a : RegAddr) (hs : s.seq = .run 0x1 .finish l) :
    exec (.rdreg a) s = .next ({ s with rdata := l.v }.finish .ok) :=
  atOp_run hs

theorem exec_wrreg_at_finish (a : RegAddr) (v : Byte) (hs : s.seq = .run 0x2 .finish l) :
    exec (.wrreg a v) s = .next (s.finish .ok) :=
  atOp_run hs

theorem exec_strobe_at_finish (c : Byte) (t : BitVec 16) (hs : s.seq = .run 0x3 .finish l) :
    exec (.strobe c t) s = .next (s.finish .ok) :=
  atOp_run hs

theorem exec_tx_at_finish (k : CommandCode) (n : Byte) (hs : s.seq = .run 0x4 .finish l) :
    exec (.tx k n) s = .next (s.finish .ok) :=
  atOp_run hs

/-- LEARN's last line is the end without a match (rule R181); a match finishes earlier (rule R183). -/
theorem exec_learn_at_finish (hs : s.seq = .run 0x5 .finish l) : exec .learn s = .next (s.finish .exhausted) :=
  atOp_run hs

theorem exec_setaddr_at_finish (a b : Byte) (hs : s.seq = .run 0x6 .finish l) :
    exec (.setaddr a b) s = .next (s.finish .ok) :=
  atOp_run hs

theorem exec_init_at_finish (hs : s.seq = .run 0x7 .finish l) : exec .init s = .next (s.finish .ok) :=
  atOp_run hs

end Sys2Proof.Machine

open Sys2Proof.Machine

/-- Settles O16: one conjunct per command, each the command's equation at its last line, with `State.finish` as the
record update that the statement writes out. -/
theorem finishLineCompletes : Obligations.FinishLineCompletes := by
  intro s l
  exact ⟨exec_nop_at_start, exec_rdreg_at_finish, exec_wrreg_at_finish, exec_strobe_at_finish, exec_tx_at_finish,
    exec_learn_at_finish, exec_setaddr_at_finish, exec_init_at_finish⟩

end

section
/-! What a SEQ step may write, for every command at once: a step at a transaction line is the transaction's
(`exec_bus`), a step at any other line writes the command's own registers (`exec_line`), and both together are
`exec_written`. -/

namespace Sys2Proof.Machine

/-- `s` with the control state, the bus and the environment of `t`: what a SEQ step of any command may write. -/
def State.withControl (s t : State) : State :=
  { s with
    busy := t.busy
    done := t.done
    seq := t.seq
    sel := t.sel
    wcnt := t.wcnt
    trace := t.trace
    env := t.env }

/-- `s` with everything that a SEQ step of command `i` may write taken from `t`: beside the control state, the registers
of `i` alone (rules R43, R44, R45, R47, R153, R244). -/
def State.writtenBy (s : State) (i : Instr) (t : State) : State :=
  match i with
  | .rdreg _ => { s.withControl t with rdata := t.rdata }
  | .tx _ _ => { s.withControl t with repsDone := t.repsDone }
  | .learn =>
    { s.withControl t with
      lstate := t.lstate
      attempts := t.attempts
      rxlen := t.rxlen
      fb := t.fb
      addr := t.addr }
  | .setaddr _ _ => { s.withControl t with addr := t.addr }
  | _ => s.withControl t

/-- A step of command `i` was made at a position of `i` (rule R33). -/
theorem exec_next_running {i : Instr} {s t : State} (h : exec i s = .next t) :
    ∃ pos l, s.seq = .run (opcode i) pos l := by
  cases i <;> exact (atOp_next h).imp fun _ => Exists.imp fun _ => And.left

/-- A command has no step at a transaction line that is none of its own. -/
theorem exec_fault_of_no_xfer {i : Instr} {s : State} {t : Txn} {b : BusPos} {l : Locals}
    (hx : xferOf sbfcParams s.addr l i t = none) (hs : s.seq = .run (opcode i) (.bus t b) l) :
    exec i s = .fault .noSuchPosition := by
  cases i <;> cases t
  case init.initWrite =>
    have he := Option.map_eq_none_iff.mp hx
    simp only [exec, execInit, initStep, atOp_run (op := 0x7) hs, he]
  all_goals first
    | exact nomatch (show some _ = (none : Option Xfer) from hx)
    | exact atOp_run hs

/-- A transaction line of any command, under the parameters of the modelled SBFC. -/
theorem exec_bus_eq {i : Instr} {s : State} {t : Txn} {b : BusPos} {l : Locals} {x : Xfer}
    (hx : xferOf sbfcParams s.addr l i t = some x) (hs : s.seq = .run (opcode i) (.bus t b) l) :
    exec i s = busStep sbfcParams x (opcode i) t l (afterTxn sbfcParams i l t) (stopOf i) b s := by
  rw [← commandStep_bus hx hs]
  cases i <;> rfl

/-- A step made at a transaction line is a step of that line's transaction. -/
theorem exec_bus {i : Instr} {s u : State} {t : Txn} {b : BusPos} {l : Locals} (h : exec i s = .next u)
    (hs : s.seq = .run (opcode i) (.bus t b) l) :
    ∃ x, xferOf sbfcParams s.addr l i t = some x ∧
      busStep sbfcParams x (opcode i) t l (afterTxn sbfcParams i l t) (stopOf i) b s = .next u := by
  cases hx : xferOf sbfcParams s.addr l i t with
  | none => rw [exec_fault_of_no_xfer hx hs] at h; cases h
  | some x => exact ⟨x, rfl, exec_bus_eq hx hs ▸ h⟩

/-- What the environment and the trace can see of one SEQ step: the turns, RST and the host's reads stay, and at most
one bus event is appended (rule R79). -/
structure State.StepSeen (s t : State) : Prop where
  turns : t.env.turns = s.env.turns
  rst : t.env.rst = s.env.rst
  reads : t.env.reads = s.env.reads
  events : ∃ es : List Event, t.trace = s.trace ++ es ∧ es.length ≤ 1

/-- A step that leaves the environment and the trace alone. -/
theorem State.StepSeen.of_eq {s t : State} (he : t.env = s.env) (ht : t.trace = s.trace) : s.StepSeen t :=
  ⟨by rw [he], by rw [he], by rw [he], [], by simp [ht], by simp⟩

/-- A step of a transaction writes control state only, except that LEARN's abort also writes LSTATE (rule R267). -/
theorem busStep_written {p : Params} {x : Xfer} {op : BitVec 4} {t : Txn} {l : Locals} {after : Seq} {i : Instr}
    {b : BusPos} {s u : State} (h : busStep p x op t l after (stopOf i) b s = .next u) :
    u = { s.withControl u with lstate := u.lstate } ∧ (i ≠ .learn → u.lstate = s.lstate) ∧ s.StepSeen u := by
  rcases busStep_next h with
    ⟨-, rfl⟩ | ⟨-, rfl⟩ | ⟨-, rfl⟩ | ⟨-, rfl⟩ | ⟨k, -, rfl⟩ | ⟨k, o, -, -, rfl⟩ | ⟨-, rfl⟩ | ⟨-, rfl⟩
  case inr.inl =>
    obtain ⟨ht, hr, hd⟩ := s.popBrl_env
    rcases s.sampleBrl_cases p op t l (stopOf i) with ⟨-, he⟩ | ⟨-, -, he⟩ | ⟨-, -, he⟩ <;> rw [he]
    · exact ⟨rfl, fun _ => rfl, ht, hr, hd, _, rfl, by simp⟩
    · by_cases hi : i = .learn
      · rw [stopOf, if_pos hi]
        exact ⟨rfl, fun h => absurd hi h, ht, hr, hd, [], by simp, by simp⟩
      · rw [stopOf, if_neg hi]
        exact ⟨rfl, fun _ => rfl, ht, hr, hd, [], by simp, by simp⟩
    · exact ⟨rfl, fun _ => rfl, ht, hr, hd, [], by simp, by simp⟩
  case inr.inr.inr.inl | inr.inr.inr.inr.inr.inl =>
    obtain ⟨ht, hr, hd⟩ := s.popRx_env
    exact ⟨rfl, fun _ => rfl, ht, hr, hd, _, rfl, by simp⟩
  case inl => exact ⟨rfl, fun _ => rfl, .of_eq rfl rfl⟩
  all_goals exact ⟨rfl, fun _ => rfl, rfl, rfl, rfl, _, rfl, by simp⟩

/-- A step that writes control state, and LSTATE only in LEARN, writes what its command may write. -/
theorem State.eq_writtenBy_of_control {i : Instr} {s u : State}
    (hu : u = { s.withControl u with lstate := u.lstate }) (hl : i ≠ .learn → u.lstate = s.lstate) :
    u = s.writtenBy i u := by
  by_cases hi : i = .learn
  · subst hi
    rw [hu]
    rfl
  · rw [hl hi] at hu
    cases i <;> first
      | exact hu
      | rw [hu]; rfl

/-- A step at a line that is no transaction: the registers of its own command at most, no bus event and no draw. -/
theorem exec_line {i : Instr} {s t : State} {pos : Pos} {l : Locals} (h : exec i s = .next t)
    (hs : s.seq = .run (opcode i) pos l) (hpos : ∀ x b, pos ≠ .bus x b) :
    t = s.writtenBy i t ∧ t.env = s.env ∧ t.trace = s.trace := by
  cases i with
  | nop =>
    have h := (atOp_run hs).symm.trans h
    cases pos
    case start => cases h; exact ⟨rfl, rfl, rfl⟩
    all_goals cases h
  | rdreg a =>
    have h := (atOp_run hs).symm.trans h
    cases pos
    case bus x b => exact absurd rfl (hpos x b)
    case start | operands | finish => cases h; exact ⟨rfl, rfl, rfl⟩
    all_goals cases h
  | wrreg a v =>
    have h := (atOp_run hs).symm.trans h
    cases pos
    case bus x b => exact absurd rfl (hpos x b)
    case start | finish => cases h; exact ⟨rfl, rfl, rfl⟩
    all_goals cases h
  | strobe c d =>
    have h := (atOp_run hs).symm.trans h
    cases pos
    case bus x b => exact absurd rfl (hpos x b)
    case start | finish => cases h; exact ⟨rfl, rfl, rfl⟩
    all_goals cases h
  | tx k n =>
    have h := (atOp_run hs).symm.trans h
    cases pos
    case bus x b => exact absurd rfl (hpos x b)
    case start | finish => cases h; exact ⟨rfl, rfl, rfl⟩
    case precondition | setup | countRep => cases h; split <;> exact ⟨rfl, rfl, rfl⟩
    all_goals cases h
  | learn =>
    have h := (atOp_run hs).symm.trans h
    cases pos
    case bus x b => exact absurd rfl (hpos x b)
    case parse => cases h; unfold parseStep; split <;> exact ⟨rfl, rfl, rfl⟩
    case precondition | checkLen | storeByte => cases h; split <;> exact ⟨rfl, rfl, rfl⟩
    case checkMatch =>
      cases h
      split
      · exact ⟨rfl, rfl, rfl⟩
      · split <;> exact ⟨rfl, rfl, rfl⟩
    case operands | tableEntry | countRep => cases h
    all_goals cases h; exact ⟨rfl, rfl, rfl⟩
  | setaddr a b =>
    have h := (atOp_run hs).symm.trans h
    cases pos
    case bus x b => exact absurd rfl (hpos x b)
    case start | operands | setup | finish => cases h; exact ⟨rfl, rfl, rfl⟩
    case precondition => cases h; split <;> exact ⟨rfl, rfl, rfl⟩
    all_goals cases h
  | init =>
    have h := (atOp_run hs).symm.trans h
    cases pos
    case bus x b => exact absurd rfl (hpos x b)
    case start | tableEntry | finish => cases h; exact ⟨rfl, rfl, rfl⟩
    all_goals cases h

/-- What one SEQ step of any command may write, and what of it the environment and the trace can see. -/
theorem exec_written {i : Instr} {s t : State} (h : exec i s = .next t) : t = s.writtenBy i t ∧ s.StepSeen t := by
  obtain ⟨pos, l, hs⟩ := exec_next_running h
  by_cases hpos : ∃ x b, pos = .bus x b
  · obtain ⟨x, b, rfl⟩ := hpos
    obtain ⟨y, -, hb⟩ := exec_bus h hs
    obtain ⟨hw, hl, hseen⟩ := busStep_written hb
    exact ⟨State.eq_writtenBy_of_control hw hl, hseen⟩
  · obtain ⟨hw, he, ht⟩ := exec_line h hs fun x b hb => hpos ⟨x, b, hb⟩
    exact ⟨hw, .of_eq he ht⟩

section
variable {i : Instr} {s t : State} (h : exec i s = .next t)
include h

theorem exec_keeps_opl : t.opl = s.opl := by
  rw [(exec_written h).1]; cases i <;> rfl

theorem exec_keeps_overrun : t.overrun = s.overrun := by
  rw [(exec_written h).1]; cases i <;> rfl

theorem exec_keeps_rdata (hi : ∀ a, i ≠ .rdreg a) : t.rdata = s.rdata := by
  rw [(exec_written h).1]
  cases i <;> first | rfl | exact absurd rfl (hi _)

theorem exec_keeps_repsDone (hi : ∀ k n, i ≠ .tx k n) : t.repsDone = s.repsDone := by
  rw [(exec_written h).1]
  cases i <;> first | rfl | exact absurd rfl (hi _ _)

theorem exec_keeps_learned (hi : i ≠ .learn) :
    t.lstate = s.lstate ∧ t.attempts = s.attempts ∧ t.rxlen = s.rxlen ∧ t.fb = s.fb := by
  rw [(exec_written h).1]
  cases i <;> first | exact ⟨rfl, rfl, rfl, rfl⟩ | exact absurd rfl hi

theorem exec_keeps_addr (hi : i ≠ .learn) (hj : ∀ a b, i ≠ .setaddr a b) : t.addr = s.addr := by
  rw [(exec_written h).1]
  cases i <;> first | rfl | exact absurd rfl hi | exact absurd rfl (hj _ _)

end

/-- The RESULT word shows RDATA alone (rule R45). -/
theorem readReg_result {s t : State} (h : t.rdata = s.rdata) : t.readReg 0x08 = s.readReg 0x08 :=
  congrArg (BitVec.setWidth 32) h

/-- The ADDR word shows ADDR alone (rule R46). -/
theorem readReg_addr {s t : State} (h : t.addr = s.addr) : t.readReg 0x0C = s.readReg 0x0C :=
  congrArg (fun a : FixtureAddress => (0 : BitVec 16) ++ a.b ++ a.a) h

/-- From RXBUF0 up the window shows RXLEN and FB alone (rules R50, R51, R72). -/
theorem readReg_received {s t : State} {off : Nat} (hx : t.rxlen = s.rxlen) (hf : t.fb = s.fb) (ho : 0x10 ≤ off) :
    t.readReg off = s.readReg off := by
  have h4 : off ≠ 0x04 := by omega
  have h8 : off ≠ 0x08 := by omega
  have hc : off ≠ 0x0C := by omega
  simp only [State.readReg, h4, h8, hc, if_false, State.rxbuf0Word, State.rxbuf1Word, State.rxlenWord, hx, hf]

end Sys2Proof.Machine

open Sys2Proof.Machine

/-- Settles O37: each register that the statement says is kept is one that `State.writtenBy` does not take from the next
state, and each window word shows the kept registers alone. -/
theorem commandStepFrame : Obligations.CommandStepFrame := by
  intro i s t h
  obtain ⟨hturns, hrst, hreads, hevents⟩ := (exec_written h).2
  refine ⟨exec_keeps_opl h, exec_keeps_overrun h, hturns, hrst, hreads, fun hi => ?_, exec_keeps_repsDone h,
    fun hi => ?_, fun hi hj => ?_, hevents⟩
  · have hk := exec_keeps_rdata h hi
    exact ⟨hk, readReg_result hk⟩
  · obtain ⟨hl, ha, hx, hf⟩ := exec_keeps_learned h hi
    exact ⟨hl, ha, hx, hf, fun _ => readReg_received hx hf⟩
  · have hk := exec_keeps_addr h hi hj
    exact ⟨hk, readReg_addr hk⟩

end

section
/-! Progress and preservation at once: a command that stands at one of its positions in a state meeting the invariant
answers a next state, and that state meets the invariant (rules R33, R39, R43, R54, R55, C9). One lemma serves every
transaction line (`Runs.bus`); each command adds its other lines. -/

namespace Sys2Proof.Machine

/-! What rule R9 says of the parameters of the modelled SBFC. -/

theorem one_le_learnMaxAttempts : 1 ≤ sbfcParams.learnMaxAttempts := by
  have h := sbfcParams_legal
  simp only [Params.legal, Bool.and_eq_true, decide_eq_true_eq] at h
  omega

theorem learnMaxAttempts_le_255 : sbfcParams.learnMaxAttempts ≤ 255 := by
  have h := sbfcParams_legal
  simp only [Params.legal, Bool.and_eq_true, decide_eq_true_eq] at h
  omega

theorem pos_of_readyTimeout {n : Nat} (hn : sbfcParams.readyTimeout = some n) : 0 < n := by
  have h := sbfcParams_legal
  simp only [Params.legal, Bool.and_eq_true, decide_eq_true_eq, hn] at h
  exact Nat.pos_of_ne_zero fun h0 => h.2 (congrArg some h0)

/-- The clauses of the invariant that speak of registers alone (C9, rules R43, R54). -/
def State.RegsOk (s : State) : Prop :=
  (s.lstate = .found → s.addrValid = true) ∧
  s.attempts.toNat ≤ sbfcParams.learnMaxAttempts ∧
  ∀ j (h : j < 8), s.fb[j] ≠ 0 → j < s.rxlen.toNat ∧ s.rxlen.toNat ≤ Const.maxFrame

/-- The invariant of a state in which command `i` runs, at position `pos` with locals `l`. -/
structure State.Runs (i : Instr) (pos : Pos) (l : Locals) (s : State) : Prop where
  rst : s.env.rst = false
  busy : s.busy = true
  done : s.done = .none
  decodes : decode s.opl = .ok i
  regs : s.RegsOk
  seq : s.seq = .run (opcode i) pos l
  sel : s.sel = selAt pos
  pos : pos = .start ∨ s.posOk l i pos

theorem State.Runs.inv {i : Instr} {pos : Pos} {l : Locals} {s : State} (h : s.Runs i pos l) : s.Inv := by
  obtain ⟨hfound, hattempts, hframe⟩ := h.regs
  refine ⟨by simp [h.busy, h.seq], hfound, hattempts, hframe, fun hr => ?_, ?_⟩
  · rw [h.rst] at hr
    cases hr
  · unfold State.seqOk
    rw [h.seq]
    exact ⟨h.done, opcode_of_decode h.decodes, h.sel, h.pos.imp id fun hp => ⟨i, h.decodes, hp⟩⟩

/-- Asserted RST keeps SEQ idle (rule R290). -/
theorem State.Inv.rst_of_run {s : State} {op : BitVec 4} {pos : Pos} {l : Locals} (h : s.Inv)
    (hs : s.seq = .run op pos l) : s.env.rst = false := by
  obtain ⟨-, -, -, -, hrst, -⟩ := h
  by_contra hr
  have hidle := congrArg State.seq (hrst (by simpa using hr))
  rw [hs] at hidle
  cases hidle

theorem State.Inv.runs {i : Instr} {op : BitVec 4} {pos : Pos} {l : Locals} {s : State} (h : s.Inv)
    (hs : s.seq = .run op pos l) (hd : decode s.opl = .ok i) : s.Runs i pos l := by
  have hrst := h.rst_of_run hs
  obtain ⟨hbusy, hfound, hattempts, hframe, -, hseq⟩ := h
  unfold State.seqOk at hseq
  rw [hs] at hseq
  obtain ⟨hdone, rfl, hsel, hpos⟩ := hseq
  refine ⟨hrst, hbusy.mpr (by rw [hs]; exact nofun), hdone, hd, ⟨hfound, hattempts, hframe⟩, ?_, hsel, ?_⟩
  · rw [hs, opcode_of_decode hd]
  · refine hpos.imp id fun ⟨j, hj, hp⟩ => ?_
    cases hd.symm.trans hj
    exact hp

/-- A state in which no command runs meets the invariant when its registers do and SEL is deasserted. -/
theorem State.inv_of_idle {s : State} (hr : s.env.rst = false) (hb : s.busy = false) (hq : s.seq = .idle)
    (hl : s.sel = .deasserted) (hregs : s.RegsOk) : s.Inv := by
  obtain ⟨hfound, hattempts, hframe⟩ := hregs
  refine ⟨by simp [hb, hq], hfound, hattempts, hframe, fun h => ?_, ?_⟩
  · rw [hr] at h
    cases h
  · unfold State.seqOk
    rw [hq]
    exact hl

/-- The fields that no line but a transaction writes, beside SEQ. -/
def State.control (s : State) : Bool × Bool × Done × Word × Level := (s.env.rst, s.busy, s.done, s.opl, s.sel)

section
variable {i : Instr} {pos : Pos} {l : Locals} {s : State}

/-- A line that writes registers and goes on. -/
theorem State.Runs.goto (h : s.Runs i pos l) {u : State} {pos' : Pos} {l' : Locals} (hc : u.control = s.control)
    (hregs : u.RegsOk) (hsel : selAt pos' = selAt pos) (hpos : u.posOk l' i pos') :
    (u.goto (opcode i) pos' l').Inv := by
  simp only [State.control, Prod.mk.injEq] at hc
  obtain ⟨hr, hb, hd, ho, hl⟩ := hc
  have hrun : (u.goto (opcode i) pos' l').Runs i pos' l' :=
    ⟨hr.trans h.rst, hb.trans h.busy, hd.trans h.done, (congrArg decode ho).trans h.decodes, hregs, rfl,
      hl.trans (h.sel.trans hsel.symm), .inr hpos⟩
  exact hrun.inv

/-- A line that writes registers and finishes. -/
theorem State.Runs.finish (h : s.Runs i pos l) {u : State} {c : Done} (hc : u.control = s.control)
    (hregs : u.RegsOk) (hsel : selAt pos = .deasserted) : (u.finish c).Inv := by
  simp only [State.control, Prod.mk.injEq] at hc
  obtain ⟨hr, -, -, -, hl⟩ := hc
  exact State.inv_of_idle (hr.trans h.rst) rfl rfl (hl.trans (h.sel.trans hsel)) hregs

/-- What holds past the legality line. -/
theorem State.Runs.posOk (h : s.Runs i pos l) (hp : pos ≠ .start) : s.posOk l i pos := h.pos.resolve_left hp

/-- What holds at a transaction line does not depend on the last value read. -/
theorem State.txnOk_v {t : Txn} (v : Byte) (h : s.txnOk l i t) : s.txnOk { l with v := v } i t := by
  cases i
  case learn => cases t <;> exact h
  all_goals exact h

/-- The end of a transaction: where the command goes on, and what holds there. -/
theorem State.Runs.after_delay {t : Txn} (h : s.Runs i (.bus t .delay) l) (e : Event) :
    State.Inv { s.emit e with seq := afterTxn sbfcParams i l t } := by
  obtain ⟨hok, x, hx, -⟩ := h.posOk nofun
  cases i <;> cases t
  case rdreg.cmd => exact h.goto (u := s.emit e) rfl h.regs rfl (.inr rfl)
  case wrreg.cmd | strobe.cmd => exact h.goto (u := s.emit e) rfl h.regs rfl rfl
  case tx.txIdle | tx.txFlush | tx.txBurst => exact h.goto (u := s.emit e) rfl h.regs rfl ⟨hok, _, rfl, trivial⟩
  case tx.txFire => exact h.goto (u := s.emit e) rfl h.regs rfl hok
  case learn.learnRx | learn.learnIdle => exact h.goto (u := s.emit e) rfl h.regs rfl ⟨hok, _, rfl, trivial⟩
  case learn.learnLen | learn.learnByte | learn.learnFlush => exact h.goto (u := s.emit e) rfl h.regs rfl hok
  case init.initReset =>
    simp only [afterTxn]
    split
    · exact h.goto (u := s.emit e) rfl h.regs rfl trivial
    · next hne => exact h.goto (u := s.emit e) rfl h.regs rfl (List.length_pos_iff.mpr hne)
  case init.initWrite =>
    simp only [afterTxn]
    split
    · next hlt => exact h.goto (u := s.emit e) rfl h.regs rfl hlt
    · exact h.goto (u := s.emit e) rfl h.regs rfl trivial
  all_goals exact nomatch (show (none : Option Xfer) = some x from hx)

/-- The abort of a timed-out wait keeps the invariant (rules R266, R267). -/
theorem State.Runs.stop (h : s.Runs i pos l) {u : State} (hc : u.control = s.control) (hregs : u.RegsOk)
    (hsel : selAt pos = .deasserted) : (stopOf i u).Inv := by
  unfold stopOf
  split
  · obtain ⟨hfound, hrest⟩ := hregs
    refine h.finish (u := { u with lstate := if u.lstate = .found then .found else .idle }) hc ⟨fun hl => ?_, hrest⟩
      hsel
    by_cases hf : u.lstate = .found
    · exact hfound hf
    · simp only [hf, if_false] at hl
      cases hl
  · exact h.finish hc hregs hsel

/-- A readiness sample (rule R131). -/
theorem State.Runs.sample {t : Txn} (h : s.Runs i (.bus t .sample) l) :
    (s.sampleBrl sbfcParams (opcode i) t l (stopOf i)).Inv := by
  obtain ⟨hok, x, hx, hwithin⟩ := h.posOk nofun
  obtain ⟨-, hrst, -⟩ := s.popBrl_env
  have hr := hrst.trans h.rst
  rcases s.sampleBrl_cases sbfcParams (opcode i) t l (stopOf i) with ⟨-, he⟩ | ⟨-, -, he⟩ | ⟨-, hne, he⟩ <;> rw [he]
  · exact State.Runs.inv (pos := .bus t .select) (l := l)
      { h with rst := hr, seq := rfl, sel := h.sel, pos := .inr ⟨hok, x, hx, trivial⟩ }
  · exact h.stop (by simp [State.control, hrst]) h.regs rfl
  · refine State.Runs.inv (pos := .bus t .sample) (l := l)
      { h with rst := hr, seq := h.seq, sel := h.sel, pos := .inr ⟨hok, x, hx, fun n hn => ?_⟩ }
    have hlt := hwithin n hn
    have hn' : n ≠ s.wcnt + 1 := fun he => hne (he ▸ hn)
    simp only
    omega

/-- Every step of every transaction line (rules R131 to R136). -/
theorem State.Runs.bus {t : Txn} {b : BusPos} (h : s.Runs i (.bus t b) l) : ∃ u, exec i s = .next u ∧ u.Inv := by
  obtain ⟨hok, x, hx, hwithin⟩ := h.posOk nofun
  obtain ⟨-, hrst, -⟩ := s.popRx_env
  rw [exec_bus_eq hx h.seq]
  cases b with
  | clear =>
    exact ⟨_, rfl, State.Runs.inv (pos := .bus t .sample) (l := l)
      { h with seq := rfl, sel := h.sel, pos := .inr ⟨hok, x, hx, fun _ => pos_of_readyTimeout⟩ }⟩
  | sample => exact ⟨_, rfl, h.sample⟩
  | select =>
    exact ⟨_, rfl, State.Runs.inv (pos := .bus t .header) (l := l)
      { h with seq := rfl, sel := rfl, pos := .inr ⟨hok, x, hx, trivial⟩ }⟩
  | header =>
    refine ⟨_, rfl, ?_⟩
    rw [State.xchg_eq]
    split
    · exact State.Runs.inv (pos := .bus t .deselect) (l := l)
        { h with rst := hrst.trans h.rst, seq := rfl, sel := h.sel, pos := .inr ⟨hok, x, hx, trivial⟩ }
    · next hne =>
      exact State.Runs.inv (pos := .bus t (.gap 0)) (l := l)
        { h with rst := hrst.trans h.rst, seq := rfl, sel := h.sel,
                 pos := .inr ⟨hok, x, hx, List.length_pos_iff.mpr hne⟩ }
  | gap k =>
    exact ⟨_, rfl, State.Runs.inv (pos := .bus t (.payload k)) (l := l)
      { h with seq := rfl, sel := h.sel, pos := .inr ⟨hok, x, hx, hwithin⟩ }⟩
  | payload k =>
    have hlocals : ∀ l', l' = (if x.reads then { l with v := s.nextRx } else l) →
        s.txnOk l' i t ∧ xferOf sbfcParams s.addr l' i t = some x := by
      rintro l' rfl
      split
      · exact ⟨State.txnOk_v _ hok, (xferOf_v ..).trans hx⟩
      · exact ⟨hok, hx⟩
    obtain ⟨hok', hx'⟩ := hlocals _ rfl
    simp only [busStep, List.getElem?_eq_getElem hwithin, State.xchg_eq]
    refine ⟨_, rfl, ?_⟩
    split
    · next hlt =>
      exact State.Runs.inv (pos := .bus t (.gap (k + 1))) (l := if x.reads then { l with v := s.nextRx } else l)
        { h with rst := hrst.trans h.rst, seq := rfl, sel := h.sel, pos := .inr ⟨hok', x, hx', hlt⟩ }
    · exact State.Runs.inv (pos := .bus t .deselect) (l := if x.reads then { l with v := s.nextRx } else l)
        { h with rst := hrst.trans h.rst, seq := rfl, sel := h.sel, pos := .inr ⟨hok', x, hx', trivial⟩ }
  | deselect =>
    exact ⟨_, rfl, State.Runs.inv (pos := .bus t .delay) (l := l)
      { h with seq := rfl, sel := rfl, pos := .inr ⟨hok, x, hx, trivial⟩ }⟩
  | delay => exact ⟨_, rfl, h.after_delay _⟩

end

end Sys2Proof.Machine
end

section
/-! The lines of each command that are no transaction: every one answers a next state and keeps the invariant; a
position that the command does not have contradicts it. Put together in `Runs.exec`. -/

namespace Sys2Proof.Machine

variable {s : State} {pos : Pos} {l : Locals}

theorem State.Runs.exec_nop (h : s.Runs .nop pos l) : ∃ u, exec .nop s = .next u ∧ u.Inv := by
  cases pos
  case start => exact ⟨_, atOp_run h.seq, h.finish rfl h.regs rfl⟩
  case bus => exact h.bus
  all_goals exact (h.posOk nofun).elim

theorem State.Runs.exec_rdreg {a : RegAddr} (h : s.Runs (.rdreg a) pos l) :
    ∃ u, exec (.rdreg a) s = .next u ∧ u.Inv := by
  cases pos
  case start => exact ⟨_, atOp_run h.seq, h.goto rfl h.regs rfl (.inl rfl)⟩
  case operands => exact ⟨_, atOp_run h.seq, h.goto rfl h.regs rfl ⟨trivial, _, rfl, trivial⟩⟩
  case bus => exact h.bus
  case finish => exact ⟨_, atOp_run h.seq, h.finish rfl h.regs rfl⟩
  all_goals exact (h.posOk nofun).elim nofun nofun

theorem State.Runs.exec_wrreg {a : RegAddr} {v : Byte} (h : s.Runs (.wrreg a v) pos l) :
    ∃ u, exec (.wrreg a v) s = .next u ∧ u.Inv := by
  cases pos
  case start => exact ⟨_, atOp_run h.seq, h.goto rfl h.regs rfl ⟨trivial, _, rfl, trivial⟩⟩
  case bus => exact h.bus
  case finish => exact ⟨_, atOp_run h.seq, h.finish rfl h.regs rfl⟩
  all_goals exact nomatch (h.posOk nofun)

theorem State.Runs.exec_strobe {c : Byte} {d : BitVec 16} (h : s.Runs (.strobe c d) pos l) :
    ∃ u, exec (.strobe c d) s = .next u ∧ u.Inv := by
  cases pos
  case start => exact ⟨_, atOp_run h.seq, h.goto rfl h.regs rfl ⟨trivial, _, rfl, trivial⟩⟩
  case bus => exact h.bus
  case finish => exact ⟨_, atOp_run h.seq, h.finish rfl h.regs rfl⟩
  all_goals exact nomatch (h.posOk nofun)

theorem State.Runs.exec_setaddr {a b : Byte} (h : s.Runs (.setaddr a b) pos l) :
    ∃ u, exec (.setaddr a b) s = .next u ∧ u.Inv := by
  cases pos
  case start | operands => exact ⟨_, atOp_run h.seq, h.goto rfl h.regs rfl trivial⟩
  case precondition =>
    refine ⟨_, atOp_run h.seq, ?_⟩
    split
    · next haddr => exact h.goto rfl h.regs rfl haddr
    · exact h.finish rfl h.regs rfl
  case setup =>
    have haddr : isAddress { a := a, b := b } = true := h.posOk nofun
    obtain ⟨-, hrest⟩ := h.regs
    exact ⟨_, atOp_run h.seq,
      h.goto (u := { s with addr := { a := a, b := b } }) rfl ⟨fun _ => haddr, hrest⟩ rfl ⟨rfl, haddr⟩⟩
  case bus => exact h.bus
  case finish => exact ⟨_, atOp_run h.seq, h.finish rfl h.regs rfl⟩
  all_goals exact (h.posOk nofun).elim

theorem State.Runs.exec_init (h : s.Runs .init pos l) : ∃ u, exec .init s = .next u ∧ u.Inv := by
  cases pos
  case start => exact ⟨_, atOp_run h.seq, h.goto rfl h.regs rfl ⟨trivial, _, rfl, trivial⟩⟩
  case tableEntry =>
    have hci : l.ci < sbfcParams.configTable.length := h.posOk nofun
    have hx : xferOf sbfcParams s.addr l .init .initWrite =
        some (writeXfer sbfcParams (sbfcParams.configTable[l.ci]).1 (sbfcParams.configTable[l.ci]).2) := by
      simp only [xferOf, initXfer, List.getElem?_eq_getElem hci, Option.map_some]
    exact ⟨_, atOp_run h.seq, h.goto rfl h.regs rfl ⟨trivial, _, hx, trivial⟩⟩
  case bus => exact h.bus
  case finish => exact ⟨_, atOp_run h.seq, h.finish rfl h.regs rfl⟩
  all_goals exact (h.posOk nofun).elim

/-- TX counts its repetitions in REPS_DONE one behind the loop variable `rep` (rule R215). -/
theorem State.Runs.exec_tx {k : CommandCode} {n : Byte} (h : s.Runs (.tx k n) pos l) :
    ∃ u, exec (.tx k n) s = .next u ∧ u.Inv := by
  cases pos
  case start => exact ⟨_, atOp_run h.seq, h.goto rfl h.regs rfl trivial⟩
  case precondition =>
    refine ⟨_, atOp_run h.seq, ?_⟩
    split
    · next hvalid => exact h.goto rfl h.regs rfl hvalid
    · exact h.finish rfl h.regs rfl
  case setup =>
    have hvalid : s.addrValid = true := h.posOk nofun
    refine ⟨_, atOp_run h.seq, ?_⟩
    split
    · next hn => exact h.goto (u := { s with repsDone := 0 }) rfl h.regs rfl ⟨hvalid, hn.symm⟩
    · next hn =>
      have hpos : 1 ≤ n.toNat := Nat.one_le_iff_ne_zero.mpr fun h0 => hn (BitVec.eq_of_toNat_eq h0)
      exact h.goto (u := { s with repsDone := 0 }) rfl h.regs rfl ⟨⟨hvalid, le_rfl, hpos, rfl⟩, _, rfl, trivial⟩
  case bus => exact h.bus
  case countRep =>
    obtain ⟨hvalid, hone, hle, -⟩ : s.repeating n l := h.posOk nofun
    have hrep : (BitVec.ofNat 8 l.rep).toNat = l.rep := Nat.mod_eq_of_lt (lt_of_le_of_lt hle n.isLt)
    refine ⟨_, atOp_run h.seq, ?_⟩
    split
    · next hlt =>
      exact h.goto (u := { s with repsDone := BitVec.ofNat 8 l.rep }) rfl h.regs rfl
        ⟨⟨hvalid, Nat.le_add_left 1 l.rep, hlt, congrArg (· + 1) hrep⟩, _, rfl, trivial⟩
    · next hlt =>
      have hdone : BitVec.ofNat 8 l.rep = n := BitVec.eq_of_toNat_eq (hrep.trans (le_antisymm hle (not_lt.mp hlt)))
      exact h.goto (u := { s with repsDone := BitVec.ofNat 8 l.rep }) rfl h.regs rfl ⟨hvalid, hdone⟩
  case finish => exact ⟨_, atOp_run h.seq, h.finish rfl h.regs rfl⟩
  all_goals exact (h.posOk nofun).elim

/-- An attempt's number fits ATTEMPTS (rule R43). -/
theorem toNat_attempts {n : Nat} (h : n ≤ sbfcParams.learnMaxAttempts) : (BitVec.ofNat 8 n).toNat = n :=
  Nat.mod_eq_of_lt (lt_of_le_of_lt (h.trans learnMaxAttempts_le_255) (by decide))

/-- A cleared frame buffer holds no byte outside a frame (rules R54, R172). -/
theorem State.RegsOk.of_clear_fb {u : State} (hfound : u.lstate = .found → u.addrValid = true)
    (ha : u.attempts.toNat ≤ sbfcParams.learnMaxAttempts) (hfb : u.fb = Vector.replicate 8 0) : u.RegsOk := by
  refine ⟨hfound, ha, fun j hj hne => absurd ?_ hne⟩
  simp only [hfb, Vector.getElem_replicate]

/-- Storing the byte just read keeps FB inside the frame (rules R54, R176). -/
theorem State.RegsOk.storeByte (h : s.RegsOk) (hread : s.reading l) (hj : l.j < l.len.toNat) :
    State.RegsOk { s with fb := s.fb.setIfInBounds l.j l.v } := by
  obtain ⟨hfound, hattempts, hframe⟩ := h
  obtain ⟨-, hlen, hrxlen⟩ := hread
  refine ⟨hfound, hattempts, fun k hk hne => ?_⟩
  by_cases hkj : l.j = k
  · subst hkj
    exact ⟨hrxlen ▸ hj, hrxlen ▸ hlen⟩
  · exact hframe k hk (by simpa [hkj] using hne)

/-- The parse line commits a match and its address together, else goes on with no match (rules R178, R180). -/
theorem State.Runs.parse (h : s.Runs .learn .parse l) : (parseStep l s).Inv := by
  obtain ⟨⟨hlisten, hnone, hone, hle, hatt⟩, hm, -⟩ := h.posOk nofun
  obtain ⟨-, hrest⟩ := h.regs
  unfold parseStep
  split
  · exact h.goto rfl h.regs rfl
      ⟨⟨fun ht => absurd (hm.symm.trans ht) nofun, fun _ => ⟨hlisten, hnone⟩, hone, hle, hatt⟩, _, rfl, trivial⟩
  · next r hr =>
    have haddr := parse_isAddress hr
    exact h.goto (u := { s with addr := r, lstate := .found }) rfl ⟨fun _ => haddr, hrest⟩ rfl
      ⟨rfl, haddr, hone, hle, hatt⟩

/-- The end of an attempt: FOUND, the next attempt, or EXHAUSTED (rules R181, R183). -/
theorem State.Runs.checkMatch (h : s.Runs .learn .checkMatch l) :
    State.Inv (if l.m then s.finish .found
      else if l.att < sbfcParams.learnMaxAttempts then s.goto 0x5 .attempt { l with att := l.att + 1 }
      else s.goto 0x5 .exhausted l) := by
  obtain ⟨-, hno, hone, hle, hatt⟩ : s.parsed l := h.posOk nofun
  split
  · exact h.finish rfl h.regs rfl
  · next hm =>
    obtain ⟨hlisten, hnone⟩ := hno (by simpa using hm)
    split
    · next hlt =>
      exact h.goto rfl h.regs rfl ⟨hlisten, hnone, Nat.le_add_left 1 l.att, hlt, by rw [hatt, toNat_attempts hle]⟩
    · next hlt => exact h.goto rfl h.regs rfl ⟨hlisten, hnone, by rw [hatt, le_antisymm hle (not_lt.mp hlt)]⟩

theorem State.Runs.exec_learn (h : s.Runs .learn pos l) : ∃ u, exec .learn s = .next u ∧ u.Inv := by
  obtain ⟨hfound, hattempts, hframe⟩ := h.regs
  cases pos
  case start => exact ⟨_, atOp_run h.seq, h.goto rfl h.regs rfl trivial⟩
  case precondition =>
    refine ⟨_, atOp_run h.seq, ?_⟩
    split
    · exact h.finish rfl h.regs rfl
    · next hvalid =>
      have hnone : s.addrValid = false := by simpa using hvalid
      exact h.goto rfl h.regs rfl hnone
  case setup =>
    have hnone : s.addrValid = false := h.posOk nofun
    exact ⟨_, atOp_run h.seq, h.goto (u := { s with lstate := .listening, attempts := 0 }) rfl
      ⟨nofun, Nat.zero_le _, hframe⟩ rfl ⟨rfl, hnone, le_rfl, one_le_learnMaxAttempts, rfl⟩⟩
  case attempt =>
    obtain ⟨hlisten, hnone, hone, hle, -⟩ := h.posOk nofun
    exact ⟨_, atOp_run h.seq,
      h.goto (u := { s with attempts := BitVec.ofNat 8 l.att, fb := Vector.replicate 8 0 }) rfl
        (State.RegsOk.of_clear_fb hfound ((toNat_attempts hle).trans_le hle) rfl) rfl
        ⟨⟨⟨hlisten, hnone, hone, hle, rfl⟩, rfl⟩, _, rfl, trivial⟩⟩
  case bus => exact h.bus
  case recordLen =>
    obtain ⟨hlisten, hfb⟩ := h.posOk nofun
    exact ⟨_, atOp_run h.seq, h.goto (u := { s with rxlen := l.len }) rfl
      (State.RegsOk.of_clear_fb hfound hattempts hfb) rfl ⟨hlisten, rfl⟩⟩
  case clearMatch =>
    obtain ⟨hlisten, hlen⟩ := h.posOk nofun
    exact ⟨_, atOp_run h.seq, h.goto rfl h.regs rfl ⟨hlisten, rfl, hlen⟩⟩
  case checkLen =>
    obtain ⟨⟨hlisten, hnone, hatt⟩, hm, hlen⟩ := h.posOk nofun
    refine ⟨_, atOp_run h.seq, ?_⟩
    split
    · next hin =>
      obtain ⟨hlo, hhi⟩ := hin
      exact h.goto rfl h.regs rfl
        ⟨⟨⟨hlisten, hnone, hatt⟩, hm, ⟨hlo, hhi, hlen⟩, Nat.zero_lt_of_lt hlo⟩, _, rfl, trivial⟩
    · exact h.goto rfl h.regs rfl
        ⟨⟨fun ht => absurd (hm.symm.trans ht) nofun, fun _ => ⟨hlisten, hnone⟩, hatt⟩, _, rfl, trivial⟩
  case storeByte =>
    obtain ⟨hlisten, hm, hread, hj⟩ := h.posOk nofun
    have hregs := h.regs.storeByte hread hj
    refine ⟨_, atOp_run h.seq, ?_⟩
    split
    · next hlt => exact h.goto rfl hregs rfl ⟨⟨hlisten, hm, hread, hlt⟩, _, rfl, trivial⟩
    · exact h.goto rfl hregs rfl ⟨hlisten, hm, hread⟩
  case parse => exact ⟨_, atOp_run h.seq, h.parse⟩
  case setMatch =>
    obtain ⟨hl, hvalid, hatt⟩ := h.posOk nofun
    exact ⟨_, atOp_run h.seq, h.goto rfl h.regs rfl ⟨⟨fun _ => ⟨hl, hvalid⟩, nofun, hatt⟩, _, rfl, trivial⟩⟩
  case attemptResult => exact ⟨_, atOp_run h.seq, h.goto rfl h.regs rfl (h.posOk nofun)⟩
  case checkMatch => exact ⟨_, atOp_run h.seq, h.checkMatch⟩
  case exhausted =>
    obtain ⟨-, hnone, hatt⟩ := h.posOk nofun
    exact ⟨_, atOp_run h.seq, h.goto (u := { s with lstate := .exhausted }) rfl ⟨nofun, hattempts, hframe⟩ rfl
      ⟨rfl, hnone, hatt⟩⟩
  case finish => exact ⟨_, atOp_run h.seq, h.finish rfl h.regs rfl⟩
  all_goals exact (h.posOk nofun).elim

/-- A running command makes its next step and keeps the invariant, whatever the draws. -/
theorem State.Runs.exec {i : Instr} (h : s.Runs i pos l) : ∃ u, exec i s = .next u ∧ u.Inv := by
  cases i with
  | nop => exact h.exec_nop
  | rdreg a => exact h.exec_rdreg
  | wrreg a v => exact h.exec_wrreg
  | strobe c d => exact h.exec_strobe
  | tx k n => exact h.exec_tx
  | learn => exact h.exec_learn
  | setaddr a b => exact h.exec_setaddr
  | init => exact h.exec_init

end Sys2Proof.Machine
end

section
/-! One turn of the machine (rules R20, R85): what it can be, and that each kind keeps the invariant. -/

namespace Sys2Proof.Machine

/-- Everything a step can be: a change of RST, a well-shaped access, or a SEQ turn of the state with the turn taken off
the list. -/
theorem step_cases {s t : State} (h : step s = .next t) :
    (∃ on ts, s.env.turns = .rst on :: ts ∧ t = (s.withTurns ts).setRst on) ∨
    (∃ a ts, s.env.turns = .host a :: ts ∧ a.aligned = true ∧ t = (s.withTurns ts).access a) ∨
    (∃ ts, (s.env.turns = [] ∨ s.env.turns = .seq :: ts) ∧ seqTurn exec (s.withTurns ts) = .next t) := by
  unfold step turnStep at h
  split at h
  · next hts => exact .inr (.inr ⟨s.env.turns, .inl hts, h⟩)
  · next ts hts => exact .inr (.inr ⟨ts, .inr hts, h⟩)
  · next a ts hts =>
    obtain ⟨ha, -, ht⟩ := hostTurn_next h
    exact .inr (.inl ⟨a, ts, hts, ha, ht⟩)
  · next on ts hts => exact .inl ⟨on, ts, hts, by cases h; rfl⟩

/-- The reset values meet the invariant (rule R60). -/
theorem State.inv_resetWith (tr : List Event) (e : Env) : (State.resetWith tr e).Inv := by
  refine ⟨by simp, nofun, Nat.zero_le _, fun j hj hne => absurd ?_ hne, fun _ => rfl, rfl⟩
  simp only [State.resetWith_fb, Vector.getElem_replicate]

/-- The invariant sees of the environment only the level of RST. -/
theorem State.Inv.withEnv {s : State} (h : s.Inv) {e : Env} (he : e.rst = s.env.rst) :
    State.Inv { s with env := e } := by
  obtain ⟨hbusy, hfound, hattempts, hframe, hrst, hseq⟩ := h
  refine ⟨hbusy, hfound, hattempts, hframe, fun hr => ?_, hseq⟩
  have hs := hrst (he ▸ hr)
  generalize s.trace = tr, s.env = e' at hs
  subst hs
  rfl

/-- A host access keeps the invariant (rules R36, R73, R264, R290). -/
theorem State.Inv.access {s : State} (h : s.Inv) (a : HostAccess) : (s.access a).Inv := by
  rcases State.access_cases a s with ⟨off, n, -, he⟩ | he | ⟨n, w, -, hr, -, he⟩ | ⟨n, w, -, hr, hb, he⟩ <;> rw [he]
  · exact h.withEnv rfl
  · exact h
  · obtain ⟨hbusy, hfound, hattempts, hframe, -, hseq⟩ := h
    exact ⟨hbusy, hfound, hattempts, hframe, fun hr' => absurd (hr.symm.trans hr') nofun, hseq⟩
  · obtain ⟨hbusy, hfound, hattempts, hframe, -, hseq⟩ := h
    have hidle : s.seq = .idle := by
      by_contra hne
      exact absurd (hb.symm.trans (hbusy.mpr hne)) nofun
    have hsel : s.sel = .deasserted := by
      unfold State.seqOk at hseq
      rw [hidle] at hseq
      exact hseq
    exact ⟨by simp, hfound, hattempts, hframe, fun hr' => absurd (hr.symm.trans hr') nofun, rfl, rfl, hsel, .inl rfl⟩

/-- An illegal word stands at its first line (rules R104, R262), and finishing it keeps the invariant. -/
theorem State.Inv.illegal {s : State} {op : BitVec 4} {pos : Pos} {l : Locals} {e : IllegalWord} (h : s.Inv)
    (hs : s.seq = .run op pos l) (hd : decode s.opl = .error e) : pos = .start ∧ (s.finish .illegal).Inv := by
  have hr := h.rst_of_run hs
  obtain ⟨-, hfound, hattempts, hframe, -, hseq⟩ := h
  unfold State.seqOk at hseq
  rw [hs] at hseq
  obtain ⟨-, -, hsel, hpos⟩ := hseq
  obtain rfl | ⟨i, hi, -⟩ := hpos
  · exact ⟨rfl, State.inv_of_idle hr rfl rfl hsel ⟨hfound, hattempts, hframe⟩⟩
  · cases hd.symm.trans hi

/-- A SEQ turn answers a next state that meets the invariant. -/
theorem State.Inv.seqTurn {s : State} (h : s.Inv) : ∃ t, seqTurn exec s = .next t ∧ t.Inv := by
  unfold Machine.seqTurn
  split
  · exact ⟨s, rfl, h⟩
  · split
    · exact ⟨s, rfl, h⟩
    · next op pos l hs =>
      split
      · next i hd => exact (h.runs hs hd).exec
      · next e hd =>
        obtain ⟨rfl, hinv⟩ := h.illegal hs hd
        exact ⟨_, by unfold illegalStep; rw [hs], hinv⟩

/-- From a state that meets the invariant a step answers a next state, or is a misshapen access refused (rule R74). -/
theorem State.Inv.step_or_refused {s : State} (h : s.Inv) :
    (∃ t, step s = .next t) ∨
    ∃ r a ts, step s = .refused r ∧ s.env.turns = .host a :: ts ∧ ¬ (a.aligned = true ∧ a.inWindow = true) := by
  have hturn : ∀ ts, ∃ t, Machine.seqTurn exec (s.withTurns ts) = .next t := fun ts =>
    (h.withEnv rfl : (s.withTurns ts).Inv).seqTurn.imp fun _ => And.left
  unfold step turnStep
  split
  · exact .inl (h.seqTurn.imp fun _ => And.left)
  · exact .inl (hturn _)
  · next a ts hts =>
    unfold hostTurn
    split
    · next ha =>
      split
      · exact .inl ⟨_, rfl⟩
      · next hw => exact .inr ⟨_, a, ts, rfl, hts, fun hc => hw hc.2⟩
    · next ha => exact .inr ⟨_, a, ts, rfl, hts, fun hc => ha hc.1⟩
  · exact .inl ⟨_, rfl⟩

end Sys2Proof.Machine

open Sys2Proof Sys2Proof.Machine

/-- Settles O46: no clause of the invariant depends on the environment, beside RST's own. -/
theorem invHoldsAtReset : Obligations.InvHoldsAtReset :=
  ⟨State.inv_resetWith [] {}, State.inv_resetWith []⟩

/-- Settles O47, by the kind of turn: RST gives the reset values, an access keeps what the invariant speaks of or starts
a command at its first line, and a SEQ turn is a step of a running command (`State.Runs.exec`). -/
theorem stepKeepsInv : Obligations.StepKeepsInv := by
  intro s t h hstep
  rcases step_cases hstep with ⟨on, ts, -, rfl⟩ | ⟨a, ts, -, -, rfl⟩ | ⟨ts, -, hseq⟩
  · exact State.inv_resetWith _ _
  · exact (h.withEnv rfl : (s.withTurns ts).Inv).access a
  · obtain ⟨u, hu, hinv⟩ := (h.withEnv rfl : (s.withTurns ts).Inv).seqTurn
    cases hseq.symm.trans hu
    exact hinv

/-- Settles O48: a SEQ turn always answers, so only a host access can be refused. -/
theorem invNeverFaults : Obligations.InvNeverFaults := by
  intro s h
  rcases h.step_or_refused with ⟨t, ht⟩ | ⟨r, a, ts, hr, hts, ha⟩
  · rw [ht]
    exact ⟨nofun, nofun⟩
  · rw [hr]
    exact ⟨nofun, fun _ _ => ⟨a, ts, hts, ha⟩⟩

/-- Settles O49: the invariant makes `s` a running state of `i`, and such a state steps (`State.Runs.exec`). -/
theorem runningCommandAlwaysSteps : Obligations.RunningCommandAlwaysSteps := by
  intro i s op pos l h hs hd
  exact (h.runs hs hd).exec.imp fun _ => And.left

end

section
/-! The host's side (rules R36, R37, R60, R71, R72): the words of the window, the accesses of CMD, and the step that an
accepted word runs. -/

namespace Sys2Proof.Machine

/-- The fields of STATUS at their bits (rule R37). -/
theorem State.statusWord_fields (s : State) :
    s.statusWord.extractLsb' 0 1 = BitVec.ofBool s.busy ∧ s.statusWord.extractLsb' 1 3 = doneCode s.done ∧
    s.statusWord.extractLsb' 4 2 = lstateCode s.lstate ∧ s.statusWord.extractLsb' 6 1 = BitVec.ofBool s.addrValid ∧
    s.statusWord.extractLsb' 7 1 = BitVec.ofBool s.overrun ∧ s.statusWord.extractLsb' 8 8 = s.attempts ∧
    s.statusWord.extractLsb' 16 8 = s.repsDone ∧ s.statusWord.extractLsb' 24 8 = 0 := by
  refine ⟨?_, ?_, ?_, ?_, ?_, ?_, ?_, ?_⟩ <;>
  · refine BitVec.eq_of_getLsbD_eq fun i hi => ?_
    simp only [State.statusWord, BitVec.getLsbD_extractLsb', BitVec.getLsbD_append, hi, decide_true, Bool.true_and]
    interval_cases i <;> simp

/-- The four bytes of a word, the lowest first (rule R78). -/
theorem bytes_of_append (b3 b2 b1 b0 : Byte) :
    (b3 ++ b2 ++ b1 ++ b0).extractLsb' 0 8 = b0 ∧ (b3 ++ b2 ++ b1 ++ b0).extractLsb' 8 8 = b1 ∧
    (b3 ++ b2 ++ b1 ++ b0).extractLsb' 16 8 = b2 ∧ (b3 ++ b2 ++ b1 ++ b0).extractLsb' 24 8 = b3 := by
  refine ⟨?_, ?_, ?_, ?_⟩ <;>
  · refine BitVec.eq_of_getLsbD_eq fun i hi => ?_
    simp only [BitVec.getLsbD_extractLsb', BitVec.getLsbD_append, hi, decide_true, Bool.true_and]
    interval_cases i <;> simp

/-- The fields of ADDR's word (rule R46). -/
theorem State.addrWord_fields (s : State) :
    s.addrWord.extractLsb' 0 8 = s.addr.a ∧ s.addrWord.extractLsb' 8 8 = s.addr.b ∧
    s.addrWord.extractLsb' 16 16 = 0 := by
  refine ⟨BitVec.extractLsb'_append_eq_right, ?_, ?_⟩
  · rw [State.addrWord, BitVec.extractLsb'_append_eq_of_le (by decide)]
    exact BitVec.extractLsb'_append_eq_right
  · exact (BitVec.extractLsb'_append_eq_of_le (by decide)).trans
      ((BitVec.extractLsb'_append_eq_of_le (by decide)).trans BitVec.extractLsb'_eq_self)

/-- A byte shown in the low bits of a word (rules R45, R51). -/
theorem byte_setWidth_fields (b : Byte) :
    (b.setWidth 32).extractLsb' 0 8 = b ∧ (b.setWidth 32).extractLsb' 8 24 = 0 := by
  refine ⟨?_, ?_⟩ <;>
  · refine BitVec.eq_of_getLsbD_eq fun i hi => ?_
    simp only [BitVec.getLsbD_extractLsb', BitVec.getLsbD_setWidth, hi, decide_true, Bool.true_and]
    interval_cases i <;> simp

/-- The sentinel is the pair whose ADDR half-word is 0 (rules R41, R46). -/
theorem isAddress_eq_decide (r : FixtureAddress) : isAddress r = decide (r.b ++ r.a ≠ 0#16) := by
  refine decide_eq_decide.mpr (not_congr ⟨fun ⟨ha, hb⟩ => ?_, fun h => ⟨?_, ?_⟩⟩)
  · rw [ha, hb]
    rfl
  · exact BitVec.extractLsb'_append_eq_right.symm.trans (congrArg (BitVec.extractLsb' 0 8) h)
  · exact BitVec.extractLsb'_append_eq_left.symm.trans (congrArg (BitVec.extractLsb' 8 8) h)

/-- The effect of a CMD write while RST is released (rules R36, R71). -/
theorem State.access_write_cmd {s : State} (hr : s.env.rst = false) (n : Nat) (w : Word) :
    s.access (.write 0x00 n w) = s.writeCmd w := by
  simp [State.access, State.writeReg, hr]

/-- A host turn inside the window and of the right shape (rule R74). -/
theorem step_host {s : State} {a : HostAccess} {ts : List Turn} (hts : s.env.turns = .host a :: ts)
    (ha : a.aligned = true) (hw : a.inWindow = true) : step s = .next ((s.withTurns ts).access a) := by
  simp only [step, turnStep, hts, hostTurn, ha, hw, if_true]

/-- A SEQ turn of a running command (rules R79, R102). -/
theorem seqTurn_run {s : State} {op : BitVec 4} {pos : Pos} {l : Locals} {i : Instr} (hr : s.env.rst = false)
    (hs : s.seq = .run op pos l) (hd : decode s.opl = .ok i) : seqTurn exec s = exec i s := by
  simp only [seqTurn, hr, hs, hd, Bool.false_eq_true, if_false]

/-- Where no turn is listed the SEQ makes the step (rule R85). -/
theorem step_of_no_turns {s : State} (hts : s.env.turns = []) : step s = seqTurn exec s := by
  simp only [step, turnStep, hts]

/-- The fields of a word that RDREG, WRREG, STROBE and TX look at, from its operand bytes (rules R101, R102). -/
theorem operand_fields (w : Word) :
    fieldAddr w = (fieldF0 w).extractLsb' 0 7 ∧ fieldAddrTop w = (fieldF0 w).extractLsb' 7 1 ∧
    fieldSel w = (fieldF0 w).extractLsb' 0 2 ∧ fieldSelTop w = (fieldF0 w).extractLsb' 2 6 ∧
    fieldSettle w = fieldF2 w ++ fieldF1 w := by
  refine ⟨?_, ?_, ?_, ?_, ?_⟩ <;>
  · refine BitVec.eq_of_getLsbD_eq fun i hi => ?_
    simp only [fieldAddr, fieldAddrTop, fieldSel, fieldSelTop, fieldSettle, fieldF0, fieldF1, fieldF2,
      BitVec.getLsbD_extractLsb', BitVec.getLsbD_append, hi, decide_true, Bool.true_and]
    interval_cases i <;> simp

/-- A register address in an operand byte: the seven bits and the top bit 0 (rule R102). -/
theorem regAddr_byte (a : RegAddr) : (a.setWidth 8).extractLsb' 0 7 = a ∧ (a.setWidth 8).extractLsb' 7 1 = 0 := by
  refine ⟨?_, ?_⟩ <;>
  · refine BitVec.eq_of_getLsbD_eq fun i hi => ?_
    simp only [BitVec.getLsbD_extractLsb', BitVec.getLsbD_setWidth, hi, decide_true, Bool.true_and]
    interval_cases i <;> simp

/-- A selector in an operand byte: its command code and the six bits above it 0 (rules R102, R103). -/
theorem selector_byte (k : CommandCode) :
    codeOf (((selOf k).setWidth 8).extractLsb' 0 2) = k ∧ ((selOf k).setWidth 8).extractLsb' 2 6 = 0 := by
  cases k <;> decide

/-- The two bytes of a settle time (rule R101). -/
theorem settle_bytes (d : BitVec 16) : d.extractLsb' 8 8 ++ d.extractLsb' 0 8 = d := by
  refine BitVec.eq_of_getLsbD_eq fun i hi => ?_
  simp only [BitVec.getLsbD_append, BitVec.getLsbD_extractLsb']
  interval_cases i <;> simp

/-- The decoder reads a command back from its word (rules R102, R107): the word is known by its fields alone. -/
theorem decode_encode (i : Instr) : decode (encode i) = .ok i := by
  cases i with
  | nop | learn | init => decide
  | rdreg a =>
    have hw := packWord_fields 0x1 0 0 (a.setWidth 8)
    rw [encode]
    generalize packWord 0x1 0 0 (a.setWidth 8) = w at hw ⊢
    obtain ⟨hop, hrsv, h2, h1, h0⟩ := hw
    obtain ⟨ha, ht, -⟩ := operand_fields w
    obtain ⟨hlow, htop⟩ := regAddr_byte a
    simp [decode, decodeFields, hop, hrsv, h2, h1, ha, ht, h0, hlow, htop]
  | wrreg a v =>
    have hw := packWord_fields 0x2 0 v (a.setWidth 8)
    rw [encode]
    generalize packWord 0x2 0 v (a.setWidth 8) = w at hw ⊢
    obtain ⟨hop, hrsv, h2, h1, h0⟩ := hw
    obtain ⟨ha, ht, -⟩ := operand_fields w
    obtain ⟨hlow, htop⟩ := regAddr_byte a
    simp [decode, decodeFields, hop, hrsv, h2, h1, ha, ht, h0, hlow, htop]
  | strobe c d =>
    have hw := packWord_fields 0x3 (d.extractLsb' 8 8) (d.extractLsb' 0 8) c
    rw [encode]
    generalize packWord 0x3 (d.extractLsb' 8 8) (d.extractLsb' 0 8) c = w at hw ⊢
    obtain ⟨hop, hrsv, h2, h1, h0⟩ := hw
    obtain ⟨-, -, -, -, hd⟩ := operand_fields w
    rw [h2, h1, settle_bytes] at hd
    simp [decode, decodeFields, hop, hrsv, h0, hd]
  | tx k n =>
    have hw := packWord_fields 0x4 0 n ((selOf k).setWidth 8)
    rw [encode]
    generalize packWord 0x4 0 n ((selOf k).setWidth 8) = w at hw ⊢
    obtain ⟨hop, hrsv, h2, h1, h0⟩ := hw
    obtain ⟨-, -, hs, ht, -⟩ := operand_fields w
    obtain ⟨hcode, htop⟩ := selector_byte k
    simp [decode, decodeFields, hop, hrsv, h2, h1, hs, ht, h0, hcode, htop]
  | setaddr a b =>
    have hw := packWord_fields 0x6 0 b a
    rw [encode]
    generalize packWord 0x6 0 b a = w at hw ⊢
    obtain ⟨hop, hrsv, h2, h1, h0⟩ := hw
    simp [decode, decodeFields, hop, hrsv, h2, h1, h0]

/-- A whole word as a row of 32 bits. -/
theorem tableWord_toNat (w : Word) : tableWord 32 w.toNat = w := by
  rw [tableWord, Nat.mod_eq_of_lt w.isLt, BitVec.ofNat_toNat, BitVec.setWidth_eq]

/-- Every command has its first line. -/
theorem exec_start {i : Instr} {s : State} {l : Locals} (hs : s.seq = .run (opcode i) .start l) :
    ∃ t, exec i s = .next t := by
  cases i <;> exact ⟨_, atOp_run hs⟩

end Sys2Proof.Machine

open Sys2Proof Sys2Proof.Machine

/-- Settles O7: with no turn listed or the SEQ's first, a step is a SEQ turn, which runs the decoded command. -/
theorem stepRunsDecodedCommand : Obligations.StepRunsDecodedCommand := by
  intro s op pos l i hr hs hd
  refine ⟨fun hts => ?_, fun ts hts => ?_⟩
  · rw [step_of_no_turns hts, seqTurn_run hr hs hd]
  · simp only [step, turnStep, hts]
    exact seqTurn_run hr hs hd

/-- Settles O8: the word decodes back to its command (`decode_encode`), which has a first line. -/
theorem acceptedWordRunsNext : Obligations.AcceptedWordRunsNext := by
  intro s i hts
  rw [State.withFetchWord, State.loadWord, tableWord_toNat]
  have hd := decode_encode i
  have hs : ∀ s : State, (s.accept (encode i)).seq = .run (opcode i) .start {} := fun s => by
    rw [State.accept_seq, opcode_of_decode hd]
  refine ⟨?_, exec_start (hs _)⟩
  rw [step_of_no_turns (by simp [hts]), seqTurn_run rfl (hs _) hd]

/-- Settles O10: both writes are `State.writeCmd`, split on BUSY; the read is `State.returnWord` of 0. -/
theorem cmdAccess : Obligations.CmdAccess := by
  intro s ts w hr
  have hwrite : s.env.turns = .host (.write 0x00 4 w) :: ts → step s = .next ((s.withTurns ts).writeCmd w) := by
    intro hts
    rw [step_host hts rfl rfl]
    exact congrArg Host.Outcome.next (State.access_write_cmd (s := s.withTurns ts) hr 4 w)
  refine ⟨fun hts hb => ⟨{}, ?_⟩, fun hts hb => ?_, fun hts => step_host hts rfl rfl⟩
  · rw [hwrite hts, State.writeCmd, State.withTurns_busy, hb]
    rfl
  · rw [hwrite hts, State.writeCmd, State.withTurns_busy, hb]
    rfl

/-- Settles O11, register by register. -/
theorem windowWords : Obligations.WindowWords := by
  intro s
  obtain ⟨hbusy, hdone, hlstate, hvalid, hoverrun, hattempts, hreps, htop⟩ := s.statusWord_fields
  obtain ⟨haddrA, haddrB, haddrTop⟩ := s.addrWord_fields
  obtain ⟨hresult, hresultTop⟩ := byte_setWidth_fields s.rdata
  obtain ⟨hrxlen, hrxlenTop⟩ := byte_setWidth_fields s.rxlen
  obtain ⟨h0, h1, h2, h3⟩ := bytes_of_append s.fb[3] s.fb[2] s.fb[1] s.fb[0]
  obtain ⟨h4, h5, h6, h7⟩ := bytes_of_append s.fb[7] s.fb[6] s.fb[5] s.fb[4]
  refine ⟨rfl, rfl, hbusy, fun c hc => hdone.trans ?_, fun c hc => hlstate.trans ?_,
    hvalid.trans (congrArg BitVec.ofBool (isAddress_eq_decide s.addr)), hoverrun, hattempts, hreps, htop, hresult,
    hresultTop, haddrA, haddrB, haddrTop, fun i hi => ?_, fun i hi => ?_, hrxlen, hrxlenTop⟩
  · cases hd : s.done <;> simp_all [doneCode]
  · cases hl : s.lstate <;> simp_all [lstateCode]
  · interval_cases i
    exacts [h0, h1, h2, h3]
  · interval_cases i
    exacts [h4, h5, h6, h7]

/-- Settles O14: the window is read slot by slot; every other value is a field of `State.reset`. -/
theorem resetStateValues : Obligations.ResetStateValues := by
  refine ⟨fun off => ?_, rfl, rfl, rfl, rfl, rfl, rfl, rfl, rfl, rfl, rfl, rfl, rfl, rfl⟩
  unfold State.readReg
  repeat' split
  all_goals decide

end

section
/-! Who writes ADDR and OVERRUN (rules R36, R41, R42, R47). -/

namespace Sys2Proof.Machine

/-- No step of a transaction writes ADDR. -/
theorem exec_bus_keeps_addr {i : Instr} {s u : State} {t : Txn} {b : BusPos} {l : Locals} (h : exec i s = .next u)
    (hs : s.seq = .run (opcode i) (.bus t b) l) : u.addr = s.addr := by
  obtain ⟨x, -, hb⟩ := exec_bus h hs
  rw [(busStep_written hb).1]
  rfl

/-- SETADDR writes ADDR at its write line only, with its operand (rule R241). -/
theorem exec_setaddr_writes_addr {a b : Byte} {s t : State} (h : exec (.setaddr a b) s = .next t)
    (hne : t.addr ≠ s.addr) : ∃ l, s.seq = .run 0x6 .setup l ∧ t.addr = { a := a, b := b } := by
  obtain ⟨pos, l, hs⟩ := exec_next_running h
  have hline := (atOp_run hs).symm.trans h
  cases pos
  case bus => exact absurd (exec_bus_keeps_addr h hs) hne
  case setup => cases hline; exact ⟨l, hs, rfl⟩
  case start | operands | finish => cases hline; exact absurd rfl hne
  case precondition => cases hline; split at hne <;> exact absurd rfl hne
  all_goals cases hline

/-- The parse line writes ADDR only with the parsed pair (rule R180). -/
theorem parseStep_writes_addr {l : Locals} {s : State} (hne : (parseStep l s).addr ≠ s.addr) :
    parse (s.frame l.len.toNat) = some (parseStep l s).addr := by
  unfold parseStep at hne ⊢
  split at hne
  · exact absurd rfl hne
  · next r hr => rw [hr]; rfl

/-- LEARN writes ADDR at its parse line only (rules R178, R180). -/
theorem exec_learn_writes_addr {s t : State} (h : exec .learn s = .next t) (hne : t.addr ≠ s.addr) :
    ∃ l, s.seq = .run 0x5 .parse l ∧ parse (s.frame l.len.toNat) = some t.addr := by
  obtain ⟨pos, l, hs⟩ := exec_next_running h
  have hline := (atOp_run hs).symm.trans h
  cases pos
  case bus => exact absurd (exec_bus_keeps_addr h hs) hne
  case parse => cases hline; exact ⟨l, hs, parseStep_writes_addr hne⟩
  case precondition | checkLen | storeByte => cases hline; split at hne <;> exact absurd rfl hne
  case checkMatch =>
    cases hline
    split at hne
    · exact absurd rfl hne
    · split at hne <;> exact absurd rfl hne
  case operands | tableEntry | countRep => cases hline
  all_goals cases hline; exact absurd rfl hne

/-- A host access never writes ADDR (rule R73). -/
theorem State.access_addr (a : HostAccess) (s : State) : (s.access a).addr = s.addr := by
  rcases State.access_cases a s with ⟨off, n, -, he⟩ | he | ⟨n, w, -, -, -, he⟩ | ⟨n, w, -, -, -, he⟩ <;>
    exact (congrArg State.addr he).trans rfl

/-- A pair that passes `isAddress` is not the sentinel. -/
theorem isAddress_iff {r : FixtureAddress} : isAddress r = true ↔ ¬ (r.a = 0 ∧ r.b = 0) := decide_eq_true_iff

/-- What SETADDR stands on at its write line under the invariant: an operand that is no sentinel (rule R242). -/
theorem State.Inv.setaddr_operand {s : State} {a b : Byte} {l : Locals} (h : s.Inv)
    (hd : decode s.opl = .ok (.setaddr a b)) (hs : s.seq = .run 0x6 .setup l) : ¬ (a = 0 ∧ b = 0) :=
  isAddress_iff.mp ((h.runs hs hd).posOk nofun)

/-- A SEQ turn never writes OVERRUN (rule R42). -/
theorem seqTurn_keeps_overrun {s t : State} (h : seqTurn exec s = .next t) : t.overrun = s.overrun := by
  rcases seqTurn_next h with ⟨rfl, -⟩ | ⟨-, op, pos, l, -, ⟨i, -, hi⟩ | ⟨e, -, -, rfl⟩⟩
  · rfl
  · exact exec_keeps_overrun hi
  · rfl

end Sys2Proof.Machine

open Sys2Proof Sys2Proof.Machine

/-- Settles O38: an access never writes ADDR, and of the commands only SETADDR and LEARN do, each at one line. -/
theorem addrHasTwoWriters : Obligations.AddrHasTwoWriters := by
  intro s t hstep hne
  rcases step_cases hstep with ⟨on, ts, hts, -⟩ | ⟨a, ts, -, -, rfl⟩ | ⟨ts, -, hseq⟩
  · exact .inl ⟨on, ts, hts⟩
  · exact absurd (State.access_addr a _) hne
  · rcases seqTurn_next hseq with ⟨rfl, -⟩ | ⟨-, op, pos, l, -, ⟨i, hd, hi⟩ | ⟨e, -, -, rfl⟩⟩
    · exact absurd rfl hne
    · by_cases hl : i = .learn
      · subst hl
        obtain ⟨l, hs, hp⟩ := exec_learn_writes_addr hi hne
        exact .inr (.inr ⟨l, hd, hs, hp, isAddress_iff.mp (parse_isAddress hp)⟩)
      · by_cases ha : ∃ a b, i = .setaddr a b
        · obtain ⟨a, b, rfl⟩ := ha
          obtain ⟨l, hs, ht⟩ := exec_setaddr_writes_addr hi hne
          exact .inr (.inl ⟨a, b, l, hd, hs, ht, fun hinv => hinv.setaddr_operand hd hs⟩)
        · exact absurd (exec_keeps_addr hi hl fun a b h => ha ⟨a, b, h⟩) hne
    · exact absurd rfl hne

/-- Settles O39: ADDR_VALID is bit 6 of STATUS, and neither writer of ADDR besides RST writes the sentinel. -/
theorem addrValidUntilReset : Obligations.AddrValidUntilReset := by
  have hbit : ∀ s : State, (s.readReg 0x04).extractLsb' 6 1 = BitVec.ofBool s.addrValid := fun s => by
    obtain ⟨-, -, -, hvalid, -⟩ := s.statusWord_fields
    exact hvalid
  have hone : ∀ v : Bool, BitVec.ofBool v = 1 ↔ v = true := by decide
  refine ⟨fun s => ?_, fun s t hinv hs hstep hrst => ?_⟩
  · rw [hbit, State.addrValid, isAddress_eq_decide]
    split
    · next h => exact congrArg BitVec.ofBool (decide_eq_false (not_not.mpr h))
    · next h => exact congrArg BitVec.ofBool (decide_eq_true h)
  · rw [hbit, hone] at hs ⊢
    by_cases hkeep : t.addr = s.addr
    · rw [State.addrValid, hkeep]
      exact hs
    · refine isAddress_iff.mpr ?_
      rcases addrHasTwoWriters s t hstep hkeep with ⟨on, ts, hts⟩ | ⟨a, b, l, -, -, ht, hpair⟩ | ⟨l, -, -, -, hpair⟩
      · exact absurd hts (hrst on ts)
      · rw [ht]
        exact hpair hinv
      · exact hpair

/-- Settles O40: of the turns only RST clears OVERRUN, and only a CMD write while BUSY = 1 sets it. -/
theorem overrunSticky : Obligations.OverrunSticky := by
  intro s t hstep
  rcases step_cases hstep with ⟨on, ts, hts, rfl⟩ | ⟨a, ts, hts, ha, rfl⟩ | ⟨ts, hts, hseq⟩
  · refine ⟨fun _ _ => ⟨on, ts, hts⟩, fun _ => nofun, fun w ts' hw => ?_⟩
    rw [hts] at hw
    cases hw
  · have hkeep : s.overrun = true → ((s.withTurns ts).access a).overrun = true := by
      intro ho
      rcases State.access_cases a (s.withTurns ts) with
        ⟨_, _, -, he⟩ | he | ⟨_, _, -, -, -, he⟩ | ⟨_, _, -, -, -, he⟩ <;>
        rw [he]
      exacts [ho, ho, ho]
    refine ⟨fun ho hc => absurd ((hkeep ho).symm.trans hc) nofun, fun ho hset => ?_, fun w ts' hw hb hr => ?_⟩
    · rcases State.access_cases a (s.withTurns ts) with ⟨_, _, -, he⟩ | he | ⟨n, w, rfl, -, hb, -⟩ | ⟨_, _, -, -, -, he⟩
      case inr.inr.inl =>
        obtain rfl : n = 4 := (of_decide_eq_true ha).1
        exact ⟨hb, w, ts, hts⟩
      all_goals
        rw [he] at hset
        exact absurd (ho.symm.trans hset) nofun
    · rw [hts] at hw
      cases hw
      have hwrite := State.access_write_cmd (s := s.withTurns ts) hr 4 w
      rw [hwrite, State.writeCmd, State.withTurns_busy, hb]
      rfl
  · have hk := seqTurn_keeps_overrun hseq
    refine ⟨fun ho hc => ?_, fun ho hset => ?_, fun w ts' hw => ?_⟩
    · exact absurd (ho.symm.trans (hk.symm.trans hc)) nofun
    · exact absurd (ho.symm.trans (hk.symm.trans hset)) nofun
    · rw [hw] at hts
      exact hts.elim nofun nofun

end

section
/-! LEARN where no attempt finds a frame (rules R170 to R181): one attempt, then all of them by induction on what the
attempts receive. -/

namespace Sys2Proof.Machine

theorem runInstr_trans {i : Instr} {s t u : State} {m n : Nat} (h : runInstr i m s = .next t)
    (h' : runInstr i n t = .next u) : runInstr i (m + n) s = .next u :=
  (runFn_add (exec i) s t m n h).trans h'

theorem runInstr_one {i : Instr} {s t : State} (h : exec i s = .next t) : runInstr i 1 s = .next t :=
  runFn_succ (exec i) 0 h

section
variable {s : State} {l : Locals}

/-! One equation per line of LEARN that is no transaction, on the path of an attempt without a frame. -/

theorem exec_learn_at_start (hs : s.seq = .run 0x5 .start l) : exec .learn s = .next (s.goto 0x5 .precondition l) :=
  atOp_run hs

theorem exec_learn_at_precondition (hs : s.seq = .run 0x5 .precondition l) (ha : s.addrValid = false) :
    exec .learn s = .next (s.goto 0x5 .setup l) :=
  (atOp_run hs).trans (by rw [ha]; rfl)

theorem exec_learn_at_setup (hs : s.seq = .run 0x5 .setup l) :
    exec .learn s = .next ({ s with lstate := .listening, attempts := 0 }.goto 0x5 .attempt { l with att := 1 }) :=
  atOp_run hs

theorem exec_learn_at_attempt (hs : s.seq = .run 0x5 .attempt l) :
    exec .learn s = .next ({ s with attempts := BitVec.ofNat 8 l.att, fb := Vector.replicate 8 0 }.goto 0x5
      (.bus .learnRx .clear) l) :=
  atOp_run hs

theorem exec_learn_at_recordLen (hs : s.seq = .run 0x5 .recordLen l) :
    exec .learn s = .next ({ s with rxlen := l.len }.goto 0x5 .clearMatch l) :=
  atOp_run hs

theorem exec_learn_at_clearMatch (hs : s.seq = .run 0x5 .clearMatch l) :
    exec .learn s = .next (s.goto 0x5 .checkLen { l with m := false }) :=
  atOp_run hs

/-- A length outside 2 to 8 is no frame (rules R174, R175). -/
theorem exec_learn_at_checkLen (hs : s.seq = .run 0x5 .checkLen l) (hlen : l.len.toNat ≤ 1 ∨ 8 < l.len.toNat) :
    exec .learn s = .next (s.goto 0x5 (.bus .learnIdle .clear) l) := by
  have hout : ¬ (Const.minFrameExcl < l.len.toNat ∧ l.len.toNat ≤ Const.maxFrame) := by
    simp only [Const.minFrameExcl, Const.maxFrame]
    omega
  exact (atOp_run hs).trans (congrArg Host.Outcome.next (if_neg hout))

theorem exec_learn_at_attemptResult (hs : s.seq = .run 0x5 .attemptResult l) :
    exec .learn s = .next (s.goto 0x5 .checkMatch l) :=
  atOp_run hs

/-- Where an attempt without a match leads: to the next attempt while there is one, else to the end (rule R181). -/
def nextAttempt (l : Locals) : Seq :=
  if l.att < sbfcParams.learnMaxAttempts then .run 0x5 .attempt { l with att := l.att + 1 } else .run 0x5 .exhausted l

theorem exec_learn_at_checkMatch (hs : s.seq = .run 0x5 .checkMatch l) (hm : l.m = false) :
    exec .learn s = .next { s with seq := nextAttempt l } := by
  refine (atOp_run hs).trans (congrArg Host.Outcome.next ((if_neg (by simp [hm])).trans ?_))
  rw [nextAttempt]
  split <;> rfl

theorem exec_learn_at_exhausted (hs : s.seq = .run 0x5 .exhausted l) :
    exec .learn s = .next ({ s with lstate := .exhausted }.goto 0x5 .finish l) :=
  atOp_run hs

end

/-- `s` after transactions that appended `es`, the last wait of which took `n` samples, with the draws `bs` and `rs`
left and SEQ at `q` (rule R136). -/
def State.ranTxns (s : State) (n : Nat) (es : List Event) (bs : List Level) (rs : List Byte) (q : Seq) : State :=
  { s with
    wcnt := n
    sel := .deasserted
    trace := s.trace ++ es
    env := { s.env with brl := bs, rx := rs }
    seq := q }

theorem State.ranTxns_ranTxns (s : State) (n n' : Nat) (es es' : List Event) (bs bs' : List Level) (rs rs' : List Byte)
    (q q' : Seq) : (s.ranTxns n es bs rs q).ranTxns n' es' bs' rs' q' = s.ranTxns n' (es ++ es') bs' rs' q' := by
  simp only [State.ranTxns, List.append_assoc]

/-- What a strobe with code `c` and settle time `d` appends (rule R150). -/
def strobeEvents (c : Byte) (d : Nat) (n : Nat) (i0 : Byte) : List Event :=
  [.wait n, .sel, .x c i0, .desel, .dly d]

/-- What the read of the reported length appends (rules R140, R173). -/
def lengthEvents (n : Nat) (i0 len : Byte) : List Event :=
  [.wait n, .sel, .x (sbfcParams.rxlenAddr.setWidth 8 ||| 0x80) i0, .gap sbfcParams.tByte, .x 0x00 len, .desel,
    .dly sbfcParams.tPost]

section
variable {s : State} {l : Locals} {m : Nat} {bs : List Level} {rs : List Byte}

/-- A strobe line of LEARN (rules R150, R178): its whole transaction. -/
theorem learn_strobe {t : Txn} {c i0 : Byte} {d : Nat} (hx : learnXfer sbfcParams t = some (strobeXfer c d))
    (hs : s.seq = .run 0x5 (.bus t .clear) l)
    (hb : s.env.brl = List.replicate m Level.asserted ++ Level.deasserted :: bs)
    (hr : s.env.rx = i0 :: rs) (ht : ∀ n, sbfcParams.readyTimeout = some n → m < n) :
    runInstr .learn (m + 6) s =
      .next (s.ranTxns (m + 1) (strobeEvents c d (m + 1) i0) bs rs (afterTxn sbfcParams .learn l t)) :=
  runInstr_txn (i := .learn) (is := []) hx hs hb hr rfl ht

/-- LEARN's read of the reported length (rules R140, R173): its whole transaction. -/
theorem learn_readLen {i0 len : Byte} (hs : s.seq = .run 0x5 (.bus .learnLen .clear) l)
    (hb : s.env.brl = List.replicate m Level.asserted ++ Level.deasserted :: bs) (hr : s.env.rx = i0 :: len :: rs)
    (ht : ∀ n, sbfcParams.readyTimeout = some n → m < n) :
    runInstr .learn (m + 8) s =
      .next (s.ranTxns (m + 1) (lengthEvents (m + 1) i0 len) bs rs
        (.run 0x5 .recordLen { l with v := len, len := len })) :=
  runInstr_txn (i := .learn) (x := readXfer sbfcParams sbfcParams.rxlenAddr) (is := [len]) rfl hs hb hr rfl ht

end

section
variable {s : State} {l : Locals} {m1 m2 m3 m4 : Nat} {bs : List Level} {rs : List Byte}

/-- The first half of an attempt (rule R173): the receiver is entered and the length read. -/
theorem learn_rx_to_recordLen {i1 i2 len : Byte} (hs : s.seq = .run 0x5 (.bus .learnRx .clear) l)
    (hb : s.env.brl = List.replicate m1 Level.asserted ++ Level.deasserted ::
      (List.replicate m2 Level.asserted ++ Level.deasserted :: bs))
    (hr : s.env.rx = i1 :: i2 :: len :: rs) (h1 : ∀ n, sbfcParams.readyTimeout = some n → m1 < n)
    (h2 : ∀ n, sbfcParams.readyTimeout = some n → m2 < n) :
    runInstr .learn (m1 + 6 + (m2 + 8)) s =
      .next (s.ranTxns (m2 + 1) (strobeEvents sbfcParams.stbRx sbfcParams.tRxWait (m1 + 1) i1 ++
        lengthEvents (m2 + 1) i2 len) bs rs (.run 0x5 .recordLen { l with v := len, len := len })) := by
  have hrx := learn_strobe (t := .learnRx) rfl hs hb hr h1
  rw [runInstr_trans hrx (learn_readLen rfl rfl rfl h2), State.ranTxns_ranTxns]

/-- Step 6 of an attempt (rules R178, R179): back to idle, the receive buffer flushed, the result assigned. -/
theorem learn_idle_to_checkMatch {i3 i4 : Byte} (hs : s.seq = .run 0x5 (.bus .learnIdle .clear) l)
    (hb : s.env.brl = List.replicate m3 Level.asserted ++ Level.deasserted ::
      (List.replicate m4 Level.asserted ++ Level.deasserted :: bs))
    (hr : s.env.rx = i3 :: i4 :: rs) (h3 : ∀ n, sbfcParams.readyTimeout = some n → m3 < n)
    (h4 : ∀ n, sbfcParams.readyTimeout = some n → m4 < n) :
    runInstr .learn (m3 + 6 + (m4 + 6) + 1) s =
      .next (s.ranTxns (m4 + 1) (strobeEvents sbfcParams.stbIdle sbfcParams.tStrobe (m3 + 1) i3 ++
        strobeEvents sbfcParams.stbFrx sbfcParams.tStrobe (m4 + 1) i4) bs rs (.run 0x5 .checkMatch l)) := by
  have hidle := learn_strobe (t := .learnIdle) rfl hs hb hr h3
  have hflush := runInstr_trans hidle (learn_strobe (t := .learnFlush) rfl rfl rfl rfl h4)
  rw [State.ranTxns_ranTxns] at hflush
  exact runInstr_trans hflush (runInstr_one (exec_learn_at_attemptResult rfl))

/-- A reported length outside 2 to 8 goes from its record straight to step 6 (rules R174, R175). -/
theorem learn_skips_frame (hs : s.seq = .run 0x5 .recordLen l) (hlen : l.len.toNat ≤ 1 ∨ 8 < l.len.toNat) :
    runInstr .learn 3 s =
      .next ({ s with rxlen := l.len }.goto 0x5 (.bus .learnIdle .clear) { l with m := false }) := by
  have hrecord := runInstr_one (exec_learn_at_recordLen hs)
  have hclear := runInstr_trans hrecord (runInstr_one (exec_learn_at_clearMatch rfl))
  exact runInstr_trans hclear (runInstr_one (exec_learn_at_checkLen rfl hlen))

/-- The events of an attempt without a frame, with `m1` to `m4` asserted samples before the deasserted one of each wait
(rule R184). -/
def attemptEvents (m1 m2 m3 m4 : Nat) (i1 i2 len i3 i4 : Byte) : List Event :=
  strobeEvents sbfcParams.stbRx sbfcParams.tRxWait (m1 + 1) i1 ++ lengthEvents (m2 + 1) i2 len ++
    strobeEvents sbfcParams.stbIdle sbfcParams.tStrobe (m3 + 1) i3 ++
    strobeEvents sbfcParams.stbFrx sbfcParams.tStrobe (m4 + 1) i4

/-- The part of such an attempt that follows its first line (rules R173 to R179). -/
theorem learn_rx_to_checkMatch {i1 i2 len i3 i4 : Byte} (hs : s.seq = .run 0x5 (.bus .learnRx .clear) l)
    (hlen : len.toNat ≤ 1 ∨ 8 < len.toNat)
    (hb : s.env.brl = List.replicate m1 Level.asserted ++ Level.deasserted ::
      (List.replicate m2 Level.asserted ++ Level.deasserted ::
      (List.replicate m3 Level.asserted ++ Level.deasserted ::
      (List.replicate m4 Level.asserted ++ Level.deasserted :: bs))))
    (hr : s.env.rx = i1 :: i2 :: len :: i3 :: i4 :: rs)
    (ht : ∀ n, sbfcParams.readyTimeout = some n → m1 < n ∧ m2 < n ∧ m3 < n ∧ m4 < n) :
    runInstr .learn (m1 + m2 + m3 + m4 + 30) s =
      .next (State.ranTxns { s with rxlen := len } (m4 + 1) (attemptEvents m1 m2 m3 m4 i1 i2 len i3 i4) bs rs
        (.run 0x5 .checkMatch { l with m := false, v := len, len := len })) := by
  have hhead := learn_rx_to_recordLen hs hb hr (fun n hn => (ht n hn).1) fun n hn => (ht n hn).2.1
  generalize hu : State.ranTxns s .. = u at hhead
  have hskip := learn_skips_frame (s := u) (l := { l with v := len, len := len }) (by rw [← hu]; rfl) hlen
  have htail := learn_idle_to_checkMatch (l := { l with v := len, len := len, m := false }) (i3 := i3) (i4 := i4)
    (bs := bs) (rs := rs) (State.goto_seq 0x5 (.bus .learnIdle .clear) _ { u with rxlen := len })
    (by subst hu; rfl) (by subst hu; rfl) (fun n hn => (ht n hn).2.2.1) fun n hn => (ht n hn).2.2.2
  have hk : m1 + m2 + m3 + m4 + 30 = m1 + 6 + (m2 + 8) + (3 + (m3 + 6 + (m4 + 6) + 1)) := by omega
  rw [hk, runInstr_trans hhead (runInstr_trans hskip htail), ← hu]
  simp only [State.ranTxns, State.goto, attemptEvents, List.append_assoc]

/-- A whole attempt whose reported length is outside 2 to 8 (rules R172 to R179). -/
theorem learn_attempt_without_frame {i1 i2 len i3 i4 : Byte} (hs : s.seq = .run 0x5 .attempt l)
    (hlen : len.toNat ≤ 1 ∨ 8 < len.toNat)
    (hb : s.env.brl = List.replicate m1 Level.asserted ++ Level.deasserted ::
      (List.replicate m2 Level.asserted ++ Level.deasserted ::
      (List.replicate m3 Level.asserted ++ Level.deasserted ::
      (List.replicate m4 Level.asserted ++ Level.deasserted :: bs))))
    (hr : s.env.rx = i1 :: i2 :: len :: i3 :: i4 :: rs)
    (ht : ∀ n, sbfcParams.readyTimeout = some n → m1 < n ∧ m2 < n ∧ m3 < n ∧ m4 < n) :
    runInstr .learn (m1 + m2 + m3 + m4 + 31) s =
      .next (State.ranTxns { s with attempts := BitVec.ofNat 8 l.att, fb := Vector.replicate 8 0, rxlen := len }
        (m4 + 1) (attemptEvents m1 m2 m3 m4 i1 i2 len i3 i4) bs rs
        (.run 0x5 .checkMatch { l with m := false, v := len, len := len })) :=
  (runFn_succ (exec .learn) _ (exec_learn_at_attempt hs)).trans
    (learn_rx_to_checkMatch (State.goto_seq ..) hlen hb hr ht)

end

theorem waitDraws_cons (w : Nat) (ws : List Nat) (bs : List Level) :
    waitDraws (w :: ws) ++ bs = List.replicate w Level.asserted ++ Level.deasserted :: (waitDraws ws ++ bs) := by
  simp [waitDraws]

/-- After a wait WCNT is known, whatever it was before. -/
theorem wcntAfter_cons (w : Nat) (ws : List Nat) (before : Nat) :
    wcntAfter (w :: ws) before = wcntAfter ws (w + 1) := by
  cases ws <;> simp [wcntAfter, List.getLast?_cons]

theorem transactions_append (es es' : List Event) : transactions (es ++ es') = transactions es + transactions es' := by
  simp [transactions, List.filter_append]

/-- An attempt without a frame has four transactions (rule R184). -/
theorem transactions_attemptEvents (m1 m2 m3 m4 : Nat) (i1 i2 len i3 i4 : Byte) :
    transactions (attemptEvents m1 m2 m3 m4 i1 i2 len i3 i4) = 4 := rfl

/-- The bytes that an attempt without a frame receives, the third of them the reported length. -/
abbrev Received := Byte × Byte × Byte × Byte × Byte

/-- An attempt's received bytes, in order. -/
def Received.bytes (x : Received) : List Byte := [x.1, x.2.1, x.2.2.1, x.2.2.2.1, x.2.2.2.2]

/-- One attempt without a frame and the check after it (rules R172 to R181), draws listed per wait and per attempt. -/
theorem learn_failed_attempt {s : State} {l : Locals} {x : Received} {w1 w2 w3 w4 : Nat} {ws : List Nat}
    {bs : List Level} {rs : List Byte} (hs : s.seq = .run 0x5 .attempt l) (hlen : x.2.2.1.toNat ≤ 1 ∨ 8 < x.2.2.1.toNat)
    (hb : s.env.brl = waitDraws (w1 :: w2 :: w3 :: w4 :: ws) ++ bs) (hr : s.env.rx = x.bytes ++ rs)
    (ht : waitsAllowed sbfcParams (w1 :: w2 :: w3 :: w4 :: ws)) :
    runInstr .learn (w1 + w2 + w3 + w4 + 32) s =
      .next (State.ranTxns { s with attempts := BitVec.ofNat 8 l.att, fb := Vector.replicate 8 0, rxlen := x.2.2.1 }
        (w4 + 1) (attemptEvents w1 w2 w3 w4 x.1 x.2.1 x.2.2.1 x.2.2.2.1 x.2.2.2.2) (waitDraws ws ++ bs) rs
        (nextAttempt { l with m := false, v := x.2.2.1, len := x.2.2.1 })) := by
  simp only [waitDraws_cons] at hb
  have hattempt := learn_attempt_without_frame hs hlen hb hr fun n hn =>
    ⟨ht n hn w1 (by simp), ht n hn w2 (by simp), ht n hn w3 (by simp), ht n hn w4 (by simp)⟩
  have hcheck := exec_learn_at_checkMatch (s := State.ranTxns { s with
      attempts := BitVec.ofNat 8 l.att
      fb := Vector.replicate 8 0
      rxlen := x.2.2.1 } (w4 + 1) (attemptEvents w1 w2 w3 w4 x.1 x.2.1 x.2.2.1 x.2.2.2.1 x.2.2.2.2) (waitDraws ws ++ bs)
    rs (.run 0x5 .checkMatch { l with m := false, v := x.2.2.1, len := x.2.2.1 })) rfl rfl
  exact runInstr_trans (m := w1 + w2 + w3 + w4 + 31) (n := 1) hattempt (runInstr_one hcheck)

/-- The waits of one attempt, split off the waits of all of them. -/
theorem exists_four_waits {ws : List Nat} {n : Nat} (h : ws.length = 4 * (n + 1)) :
    ∃ w1 w2 w3 w4 ws', ws = w1 :: w2 :: w3 :: w4 :: ws' ∧ ws'.length = 4 * n := by
  match ws, h with
  | w1 :: w2 :: w3 :: w4 :: ws', h =>
    refine ⟨w1, w2, w3, w4, ws', rfl, ?_⟩
    simp only [List.length_cons] at h
    omega
  | [], h | [_], h | [_, _], h | [_, _, _], h =>
    simp only [List.length_cons, List.length_nil] at h
    omega

/-- All the attempts that are left, the first of them `x`, none of which finds a frame (rules R170, R181): LEARN comes
to its EXHAUSTED line. -/
theorem learn_failed_attempts {bs : List Level} {rs : List Byte} (xs : List Received) :
    ∀ (x : Received) (ws : List Nat) (s : State) (l : Locals), s.seq = .run 0x5 .attempt l →
      l.att + xs.length = sbfcParams.learnMaxAttempts → (∀ y ∈ x :: xs, y.2.2.1.toNat ≤ 1 ∨ 8 < y.2.2.1.toNat) →
      ws.length = 4 * (xs.length + 1) → s.env.brl = waitDraws ws ++ bs →
      s.env.rx = (x :: xs).flatMap Received.bytes ++ rs → waitsAllowed sbfcParams ws →
      ∃ es l', runInstr .learn (32 * (xs.length + 1) + ws.sum) s = .next (State.ranTxns { s with
          attempts := BitVec.ofNat 8 sbfcParams.learnMaxAttempts
          fb := Vector.replicate 8 0
          rxlen := ((x :: xs).getLast (List.cons_ne_nil x xs)).2.2.1 }
        (wcntAfter ws s.wcnt) es bs rs (.run 0x5 .exhausted l')) ∧ transactions es = 4 * (xs.length + 1) := by
  induction xs with
  | nil =>
    intro x ws s l hs hatt hlen hw hb hr ht
    obtain ⟨w1, w2, w3, w4, ws', rfl, hw'⟩ := exists_four_waits hw
    obtain rfl : ws' = [] := List.length_eq_zero_iff.mp hw'
    have hlast := learn_failed_attempt hs (hlen x (by simp)) hb (by simpa using hr) ht
    have hmax : l.att = sbfcParams.learnMaxAttempts := hatt
    have hk : 32 * ([] : List Received).length + 32 + [w1, w2, w3, w4].sum = w1 + w2 + w3 + w4 + 32 := by
      simp only [List.length_nil, List.sum_cons, List.sum_nil]
      omega
    rw [nextAttempt, if_neg (by simp [hmax]), hmax] at hlast
    exact ⟨_, _, by rw [Nat.mul_succ, hk]; exact hlast, rfl⟩
  | cons y ys ih =>
    intro x ws s l hs hatt hlen hw hb hr ht
    obtain ⟨w1, w2, w3, w4, ws', rfl, hw'⟩ := exists_four_waits hw
    have hatt' : l.att + 1 + ys.length = sbfcParams.learnMaxAttempts := by
      rw [← hatt, List.length_cons]
      omega
    have hlt : l.att < sbfcParams.learnMaxAttempts := by omega
    have hfirst := learn_failed_attempt (rs := (y :: ys).flatMap Received.bytes ++ rs) hs (hlen x (by simp)) hb
      (by simpa using hr) ht
    rw [nextAttempt, if_pos hlt] at hfirst
    generalize hu : State.ranTxns _ (w4 + 1) .. = u at hfirst
    obtain ⟨es, l', hrest, hes⟩ := ih y ws' u { l with m := false, v := x.2.2.1, len := x.2.2.1, att := l.att + 1 }
      (by subst hu; rfl) hatt' (fun z hz => hlen z (List.mem_cons_of_mem x hz)) hw'
      (by subst hu; rfl) (by subst hu; rfl) fun b hbound m hm => ht b hbound m (by simp [hm])
    have hk : 32 * ((y :: ys).length + 1) + (w1 :: w2 :: w3 :: w4 :: ws').sum =
        w1 + w2 + w3 + w4 + 32 + (32 * (ys.length + 1) + ws'.sum) := by
      simp only [List.length_cons, List.sum_cons]
      omega
    refine ⟨attemptEvents w1 w2 w3 w4 x.1 x.2.1 x.2.2.1 x.2.2.2.1 x.2.2.2.2 ++ es, l', ?_, ?_⟩
    · rw [hk, runInstr_trans hfirst hrest, ← hu]
      simp only [State.ranTxns, wcntAfter_cons, List.append_assoc, List.getLast_cons_cons]
    · rw [transactions_append, transactions_attemptEvents, hes, List.length_cons]
      omega

end Sys2Proof.Machine

open Sys2Proof Sys2Proof.Machine

/-- Settles O34: three steps lead to the first attempt, `learn_failed_attempts` through all of them, and two steps
finish. -/
theorem learnExhaustsAfterAllAttempts : Obligations.LearnExhaustsAfterAllAttempts := by
  intro s l ws bs rs xs last hs ha hxs hlast hlen hw hb hr ht
  refine ⟨⟨_, exec_learn_at_start hs⟩, ?_⟩
  obtain ⟨x, ys, rfl⟩ := List.exists_cons_of_ne_nil (show xs ≠ [] by rintro rfl; cases hlast)
  rw [List.length_cons] at hxs
  have hsetup : runInstr .learn 3 s =
      .next ({ s with lstate := .listening, attempts := 0 }.goto 0x5 .attempt { l with att := 1 }) :=
    runInstr_trans (runInstr_one (exec_learn_at_start hs))
      (runInstr_trans (runInstr_one (exec_learn_at_precondition (s := s.goto 0x5 .precondition l) rfl ha))
        (runInstr_one (exec_learn_at_setup (s := s.goto 0x5 .setup l) rfl)))
  obtain ⟨es, l', hattempts, hes⟩ := learn_failed_attempts ys x ws
    ({ s with lstate := .listening, attempts := 0 }.goto 0x5 .attempt { l with att := 1 }) { l with att := 1 } rfl
    ((Nat.add_comm ..).trans hxs) hlen (hxs ▸ hw) hb hr ht
  have hend : ∀ u : State, u.seq = .run 0x5 .exhausted l' →
      runInstr .learn 2 u = .next ({ u with lstate := .exhausted }.finish .exhausted) := fun u hu =>
    runInstr_trans (runInstr_one (exec_learn_at_exhausted hu))
      (runInstr_one (exec_learn_at_finish (s := { u with lstate := .exhausted }.goto 0x5 .finish l') rfl))
  have hk : 32 * sbfcParams.learnMaxAttempts + 5 + ws.sum = 3 + (32 * (ys.length + 1) + ws.sum + 2) := by
    rw [hxs]
    omega
  have hlast' : (x :: ys).getLast (List.cons_ne_nil x ys) = last := by
    rw [List.getLast?_eq_some_getLast (List.cons_ne_nil x ys)] at hlast
    exact Option.some.inj hlast
  rw [hlast'] at hattempts
  refine ⟨es, ?_, by rw [hes, hxs]⟩
  rw [hk, runInstr_trans hsetup (runInstr_trans hattempts (hend _ rfl))]
  rfl

end

section
/-! A host access is invisible to the running command (rules R73, R86, R90, R264): it leaves its mark on OVERRUN and on
the host's reads alone, and no step of a command reads or writes either. -/

namespace Sys2Proof.Machine

/-- The outcome with `f` applied to its next state; a fault or a refusal is the same one. -/
def Out.mapNext (f : State → State) : Out → Out
  | .next t => .next (f t)
  | .fault e => .fault e
  | .refused e => .refused e

/-- `s` with the two things that a host access can mark while a command runs: OVERRUN, and the words that
its reads have returned. -/
def State.withHostMarks (o : Bool) (r : List Word) (s : State) : State :=
  { s with
    overrun := o
    env := { s.env with reads := r } }

/-- While BUSY = 1 an access marks OVERRUN and the host's reads at most (rules R73, R264). -/
theorem State.access_eq_withHostMarks {s : State} (hb : s.busy = true) (a : HostAccess) :
    s.access a = s.withHostMarks (s.access a).overrun (s.access a).env.reads := by
  rcases State.access_cases a s with ⟨off, n, -, he⟩ | he | ⟨n, w, -, -, -, he⟩ | ⟨n, w, -, -, hidle, -⟩
  case inr.inr.inr => exact absurd (hb.symm.trans hidle) nofun
  all_goals rw [he]; rfl

/-- A write at a slot other than CMD is ignored, whatever the level of RST (rules R72, R73). -/
theorem State.access_write_ignored (s : State) {off : Nat} (ho : off ≠ 0x00) (n : Nat) (w : Word) :
    s.access (.write off n w) = s := by
  simp [State.access, State.writeReg, ho]

/-- An access of another width or alignment is refused before anything else is looked at (rule R74). -/
theorem step_host_misshapen {s : State} {a : HostAccess} {ts : List Turn} (hts : s.env.turns = .host a :: ts)
    (ha : a.aligned = false) : step s = .refused .hostAccessShape := by
  simp only [step, turnStep, hts, hostTurn, ha, Bool.false_eq_true, if_false]

theorem aligned_eq_false {a : HostAccess} (h : a.width ≠ 4 ∨ a.off % 4 ≠ 0) : a.aligned = false :=
  decide_eq_false (not_and_or.mpr h)

section
variable (o : Bool) (r : List Word)

/-! The draws and the shared operations do not see the marks. -/

theorem State.popBrl_withHostMarks (s : State) : (s.withHostMarks o r).popBrl = s.popBrl.withHostMarks o r := by
  unfold State.popBrl
  rw [show (s.withHostMarks o r).env.brl = s.env.brl from rfl]
  cases s.env.brl <;> rfl

theorem State.popRx_withHostMarks (s : State) : (s.withHostMarks o r).popRx = s.popRx.withHostMarks o r := by
  unfold State.popRx
  rw [show (s.withHostMarks o r).env.rx = s.env.rx from rfl]
  cases s.env.rx <;> rfl

theorem State.xchg_withHostMarks (b : Byte) (s : State) :
    (s.withHostMarks o r).xchg b = (s.xchg b).withHostMarks o r := by
  rw [State.xchg, State.popRx_withHostMarks]
  rfl

theorem State.abort_withHostMarks (s : State) : (s.withHostMarks o r).abort = s.abort.withHostMarks o r := rfl

theorem State.abortLearn_withHostMarks (s : State) :
    (s.withHostMarks o r).abortLearn = s.abortLearn.withHostMarks o r := rfl

/-- A choice between two states carries the marks in both. -/
theorem mapNext_next_ite (c : Prop) [Decidable c] (s t : State) :
    Out.mapNext (State.withHostMarks o r) (.next (if c then s else t)) =
      .next (if c then s.withHostMarks o r else t.withHostMarks o r) :=
  congrArg Host.Outcome.next (apply_ite (State.withHostMarks o r) c s t)

theorem State.sampleBrl_withHostMarks {p : Params} {op : BitVec 4} {t : Txn} {l : Locals} {stop : State → State}
    (hstop : ∀ u : State, stop (u.withHostMarks o r) = (stop u).withHostMarks o r) (s : State) :
    (s.withHostMarks o r).sampleBrl p op t l stop = (s.sampleBrl p op t l stop).withHostMarks o r := by
  unfold State.sampleBrl
  rw [State.popBrl_withHostMarks]
  simp only [apply_ite (State.withHostMarks o r), ← hstop]
  rfl

/-- A step of a transaction carries the marks along where its abort does. -/
theorem busStep_withHostMarks {p : Params} {x : Xfer} {op : BitVec 4} {t : Txn} {l : Locals} {after : Seq}
    {stop : State → State} (hstop : ∀ u : State, stop (u.withHostMarks o r) = (stop u).withHostMarks o r)
    (b : BusPos) (s : State) :
    busStep p x op t l after stop b (s.withHostMarks o r) =
      Out.mapNext (State.withHostMarks o r) (busStep p x op t l after stop b s) := by
  cases b with
  | clear | select | gap | deselect | delay => rfl
  | sample => exact congrArg Host.Outcome.next (State.sampleBrl_withHostMarks o r hstop s)
  | header =>
    simp only [busStep, State.xchg_withHostMarks]
    rfl
  | payload k =>
    simp only [busStep, State.xchg_withHostMarks]
    cases x.payload[k]? <;> rfl

theorem parseStep_withHostMarks (l : Locals) (s : State) :
    parseStep l (s.withHostMarks o r) = (parseStep l s).withHostMarks o r := by
  unfold parseStep
  rw [show (s.withHostMarks o r).frame = s.frame from rfl]
  cases parse (s.frame l.len.toNat) <;> rfl

/-- A command carries the marks along if every one of its lines does. -/
theorem atOp_withHostMarks {op : BitVec 4} {s : State} {k k' : Pos → Locals → Out}
    (hk : ∀ pos l, k' pos l = Out.mapNext (State.withHostMarks o r) (k pos l)) :
    atOp op (s.withHostMarks o r) k' = Out.mapNext (State.withHostMarks o r) (atOp op s k) := by
  unfold atOp
  rw [show (s.withHostMarks o r).seq = s.seq from rfl]
  cases s.seq with
  | idle => rfl
  | run op' pos l =>
    by_cases h : op' = op
    · simp only [h, if_true, hk]
    · simp only [h, if_false]
      rfl

/-- No step of a command depends on the marks, and every step keeps them: a transaction line by `busStep_withHostMarks`,
a line with a choice by its two outcomes, any other line by its one equation. -/
theorem exec_withHostMarks (i : Instr) (s : State) :
    exec i (s.withHostMarks o r) = Out.mapNext (State.withHostMarks o r) (exec i s) := by
  cases i with
  | nop =>
    refine atOp_withHostMarks o r fun pos l => ?_
    cases pos <;> rfl
  | rdreg a =>
    refine atOp_withHostMarks o r fun pos l => ?_
    cases pos
    case bus x b =>
      cases x
      case cmd => exact busStep_withHostMarks o r (State.abort_withHostMarks o r) b s
      all_goals rfl
    all_goals rfl
  | wrreg a v =>
    refine atOp_withHostMarks o r fun pos l => ?_
    cases pos
    case bus x b =>
      cases x
      case cmd => exact busStep_withHostMarks o r (State.abort_withHostMarks o r) b s
      all_goals rfl
    all_goals rfl
  | strobe c d =>
    refine atOp_withHostMarks o r fun pos l => ?_
    cases pos
    case bus x b =>
      cases x
      case cmd => exact busStep_withHostMarks o r (State.abort_withHostMarks o r) b s
      all_goals rfl
    all_goals rfl
  | tx k n =>
    refine atOp_withHostMarks o r fun pos l => ?_
    cases pos
    case bus x b =>
      cases x
      case txIdle | txFlush | txBurst | txFire => exact busStep_withHostMarks o r (State.abort_withHostMarks o r) b s
      all_goals rfl
    case precondition | setup | countRep => rw [mapNext_next_ite]; rfl
    all_goals rfl
  | learn =>
    refine atOp_withHostMarks o r fun pos l => ?_
    cases pos
    case bus x b =>
      cases x
      case learnRx | learnLen | learnByte | learnIdle | learnFlush =>
        exact busStep_withHostMarks o r (State.abortLearn_withHostMarks o r) b s
      all_goals rfl
    case precondition | checkLen | storeByte => rw [mapNext_next_ite]; rfl
    case parse => exact congrArg Host.Outcome.next (parseStep_withHostMarks o r l s)
    case checkMatch => rw [mapNext_next_ite, apply_ite (State.withHostMarks o r)]; rfl
    all_goals rfl
  | setaddr a b =>
    refine atOp_withHostMarks o r fun pos l => ?_
    cases pos
    case precondition => rw [mapNext_next_ite]; rfl
    all_goals rfl
  | init =>
    refine atOp_withHostMarks o r fun pos l => ?_
    cases pos
    case bus x b =>
      cases x
      case initReset => exact busStep_withHostMarks o r (State.abort_withHostMarks o r) b s
      case initWrite =>
        cases sbfcParams.configTable[l.ci]? with
        | none => rfl
        | some e => exact busStep_withHostMarks o r (State.abort_withHostMarks o r) b s
      all_goals rfl
    all_goals rfl

end

end Sys2Proof.Machine

open Sys2Proof Sys2Proof.Machine

/-- Settles O41: the access is no more than its marks (`State.access_eq_withHostMarks`), and the command's step carries
marks along (`exec_withHostMarks`). -/
theorem hostAccessDoesNotDisturbCommand : Obligations.HostAccessDoesNotDisturbCommand := by
  intro i a s t hb ht
  rw [State.access_eq_withHostMarks hb a, exec_withHostMarks, ht]
  rfl

/-- Settles O12: an aligned access in the window is `State.access`, which returns the register's word or, past CMD,
ignores the write. -/
theorem readsAreSideEffectFreeAndOtherWritesIgnored : Obligations.ReadsAreSideEffectFreeAndOtherWritesIgnored := by
  intro s ts off hoff hwin
  have haligned : (4 : Nat) = 4 ∧ off % 4 = 0 := ⟨rfl, hoff⟩
  refine ⟨fun hts => ?_, rfl, fun w hcmd hts => ?_⟩
  · exact step_host hts (decide_eq_true haligned) (decide_eq_true hwin)
  · rw [step_host hts (decide_eq_true haligned) (decide_eq_true hwin), State.access_write_ignored _ hcmd]
    rfl

/-- Settles O13: neither access passes the check of its shape. -/
theorem misshapenAccessRefused : Obligations.MisshapenAccessRefused :=
  fun _ _ _ _ _ h => ⟨fun hts => step_host_misshapen hts (aligned_eq_false h),
    fun hts => step_host_misshapen hts (aligned_eq_false h)⟩

end

section
/-! The command word (rules R101 to R107): a word is known by its fields, what decodes is a command's own word, and every
legal word decodes. -/

namespace Sys2Proof.Machine

/-- A word whose RSV is 0 is packed from its other fields (rule R101). -/
theorem packWord_of_fields {w : Word} (hrsv : fieldRsv w = 0) :
    packWord (fieldOp w) (fieldF2 w) (fieldF1 w) (fieldF0 w) = w := by
  rw [packWord, ← hrsv]
  refine BitVec.eq_of_getLsbD_eq fun i hi => ?_
  simp only [fieldOp, fieldRsv, fieldF2, fieldF1, fieldF0, BitVec.getLsbD_append, BitVec.getLsbD_extractLsb']
  interval_cases i <;> simp

/-- An operand byte whose upper bits are 0 is its lower bits (rule R102: the address of RDREG, the selector of TX). -/
theorem byte_of_low_bits {m n : Nat} {b : Byte} (hmn : m + n = 8) (h : b.extractLsb' m n = 0) :
    (b.extractLsb' 0 m).setWidth 8 = b := by
  refine BitVec.eq_of_getLsbD_eq fun i hi => ?_
  simp only [BitVec.getLsbD_setWidth, BitVec.getLsbD_extractLsb', hi, decide_true, Bool.true_and, Nat.zero_add]
  by_cases hlow : i < m
  · simp [hlow]
  · have hbit : (b.extractLsb' m n).getLsbD (i - m) = false := by rw [h]; exact BitVec.getLsbD_zero
    have hin : i - m < n := by omega
    have hpos : m + (i - m) = i := by omega
    rw [BitVec.getLsbD_extractLsb', hpos] at hbit
    simpa [hlow, hin] using hbit.symm

/-- A selector number is that of the code it names (rule R103). -/
theorem selOf_codeOf : ∀ x : BitVec 2, selOf (codeOf x) = x := by decide

/-- The two bytes of a settle time, from the word (rule R101). -/
theorem fieldSettle_bytes (w : Word) :
    (fieldSettle w).extractLsb' 8 8 = fieldF2 w ∧ (fieldSettle w).extractLsb' 0 8 = fieldF1 w := by
  obtain ⟨-, -, -, -, hd⟩ := operand_fields w
  rw [hd]
  exact ⟨BitVec.extractLsb'_append_eq_left, BitVec.extractLsb'_append_eq_right⟩

/-- A check of the decoder: past it the condition holds. -/
theorem check_eq_ok {c : Prop} [Decidable c] {x : Except IllegalWord Instr} {e : IllegalWord} {i : Instr} :
    (if c then x else .error e) = .ok i ↔ c ∧ x = .ok i := by
  by_cases hc : c <;> simp [hc]

theorem decode_eq_ok {w : Word} {i : Instr} : decode w = .ok i ↔ fieldRsv w = 0 ∧ decodeFields w = .ok i :=
  check_eq_ok

/-- The word of a command is packed from the operand bytes that it was decoded from (rule R106). -/
theorem encode_of_decode {w : Word} {i : Instr} (h : decode w = .ok i) : encode i = w := by
  have hop := opcode_of_decode h
  obtain ⟨hrsv, h⟩ := decode_eq_ok.mp h
  obtain ⟨haddr, htop, hsel, hselTop, -⟩ := operand_fields w
  rw [← packWord_of_fields hrsv, ← hop]
  cases i with
  | nop | learn | init =>
    obtain ⟨h2, h1, h0⟩ : fieldF2 w = 0 ∧ fieldF1 w = 0 ∧ fieldF0 w = 0 := by
      simpa [decodeFields, ← hop, opcode] using h
    rw [h2, h1, h0]
    rfl
  | rdreg a =>
    obtain ⟨⟨h2, h1⟩, ht, rfl⟩ : (fieldF2 w = 0 ∧ fieldF1 w = 0) ∧ fieldAddrTop w = 0 ∧ fieldAddr w = a := by
      simpa [decodeFields, check_eq_ok, ← hop, opcode] using h
    rw [encode, haddr, byte_of_low_bits rfl (htop.symm.trans ht), h2, h1]
    rfl
  | wrreg a v =>
    obtain ⟨h2, ht, rfl, rfl⟩ : fieldF2 w = 0 ∧ fieldAddrTop w = 0 ∧ fieldAddr w = a ∧ fieldF1 w = v := by
      simpa [decodeFields, check_eq_ok, ← hop, opcode] using h
    rw [encode, haddr, byte_of_low_bits rfl (htop.symm.trans ht), h2]
    rfl
  | strobe c d =>
    obtain ⟨rfl, rfl⟩ : fieldF0 w = c ∧ fieldSettle w = d := by
      simpa [decodeFields, ← hop, opcode] using h
    obtain ⟨hd2, hd1⟩ := fieldSettle_bytes w
    rw [encode, hd2, hd1]
    rfl
  | tx k n =>
    obtain ⟨h2, ht, rfl, rfl⟩ : fieldF2 w = 0 ∧ fieldSelTop w = 0 ∧ codeOf (fieldSel w) = k ∧ fieldF1 w = n := by
      simpa [decodeFields, check_eq_ok, ← hop, opcode] using h
    rw [encode, selOf_codeOf, hsel, byte_of_low_bits rfl (hselTop.symm.trans ht), h2]
    rfl
  | setaddr a b =>
    obtain ⟨h2, rfl, rfl⟩ : fieldF2 w = 0 ∧ fieldF0 w = a ∧ fieldF1 w = b := by
      simpa [decodeFields, check_eq_ok, ← hop, opcode] using h
    rw [encode, h2]
    rfl

/-- The opcodes of rule R102's rows, and the reserved ones. -/
theorem opcode_cases (op : BitVec 4) :
    (op = 0x0 ∨ op = 0x1 ∨ op = 0x2 ∨ op = 0x3 ∨ op = 0x4 ∨ op = 0x5 ∨ op = 0x6 ∨ op = 0x7) ∨ 0x8 ≤ op := by
  bv_omega

/-- The decoder's checks are the conditions of rule R104. -/
theorem exists_decode_iff_legalWord (w : Word) : (∃ i, decode w = .ok i) ↔ legalWord w = true := by
  simp only [decode_eq_ok, decodeFields, legalWord, wordOpcodeOk, wordReservedOk, wordZeroFieldsOk, wordAddressOk,
    wordSelectorOk, exists_and_left]
  rcases opcode_cases (fieldOp w) with hrow | hreserved
  · rcases hrow with h | h | h | h | h | h | h | h <;> simp [h, check_eq_ok, and_assoc]
  · have hlt : ¬ fieldOp w < 8#4 := BitVec.not_lt.mpr hreserved
    have hne : ∀ c < 8#4, fieldOp w ≠ c := fun c hc h => hlt (h ▸ hc)
    simp [hne, hlt]

end Sys2Proof.Machine

open Sys2Proof Sys2Proof.Machine

/-- Settles O1 by `decode_encode`: one case per command, the word known by its fields. -/
theorem decodeEncodeRoundTrip : Obligations.DecodeEncodeRoundTrip := decode_encode

/-- Settles O2: the command of a word fixes each of its fields. -/
theorem decodedWordReencodes : Obligations.DecodedWordReencodes := fun _ _ => encode_of_decode

/-- Settles O3: the two answers of the decoder, set against rule R104's checks. -/
theorem decoderAcceptsExactlyLegalWords : Obligations.DecoderAcceptsExactlyLegalWords := by
  intro w
  have hiff := exists_decode_iff_legalWord w
  cases hd : decode w with
  | ok i => exact .inl ⟨hiff.mp ⟨i, hd⟩, i, rfl⟩
  | error e =>
    refine .inr ⟨Bool.eq_false_iff.mpr fun hl => ?_, e, rfl⟩
    obtain ⟨i, hi⟩ := hiff.mpr hl
    rw [hd] at hi
    cases hi

end

section
/-! The assembler (rule R107): the word of each of the eight syntaxes as the table writes it, numbers shifted into their
fields. -/

namespace Sys2Proof.Machine

theorem legalWord_encode (i : Instr) : legalWord (encode i) = true :=
  (exists_decode_iff_legalWord _).mp ⟨i, decode_encode i⟩

/-- A number that fits its field is the same number in any width that has room for it. -/
theorem setWidth_ofNat {m n a : Nat} (h : a < 2 ^ m) : (BitVec.ofNat m a).setWidth n = BitVec.ofNat n a := by
  refine BitVec.eq_of_toNat_eq ?_
  rw [BitVec.toNat_setWidth, BitVec.toNat_ofNat, BitVec.toNat_ofNat, Nat.mod_eq_of_lt h]

/-- A word with two operand bytes, each a number shifted to its place (rule R101). -/
theorem packWord_eq_or {f1 f0 : Byte} {v a : Word} (op : BitVec 4) (h1 : f1.setWidth 32 = v) (h0 : f0.setWidth 32 = a) :
    packWord op 0 f1 f0 = op.setWidth 32 <<< 28 ||| v <<< 8 ||| a := by
  rw [← h1, ← h0]
  refine BitVec.eq_of_getLsbD_eq fun i hi => ?_
  simp only [packWord, BitVec.getLsbD_append, BitVec.getLsbD_or, BitVec.getLsbD_shiftLeft, BitVec.getLsbD_setWidth]
  interval_cases i <;> simp

/-- The same for STROBE, whose settle time takes two bytes. -/
theorem packWord_settle_eq_or {d : BitVec 16} {c : Byte} {v a : Word} (op : BitVec 4) (hd : d.setWidth 32 = v)
    (hc : c.setWidth 32 = a) :
    packWord op (d.extractLsb' 8 8) (d.extractLsb' 0 8) c = op.setWidth 32 <<< 28 ||| v <<< 8 ||| a := by
  rw [← hd, ← hc]
  refine BitVec.eq_of_getLsbD_eq fun i hi => ?_
  simp only [packWord, BitVec.getLsbD_append, BitVec.getLsbD_or, BitVec.getLsbD_shiftLeft, BitVec.getLsbD_setWidth,
    BitVec.getLsbD_extractLsb']
  interval_cases i <;> simp

theorem setWidth_regAddr_ofNat {a : Nat} (ha : a ≤ 0x7F) :
    ((BitVec.ofNat 7 a).setWidth 8).setWidth 32 = BitVec.ofNat 32 a := by
  rw [setWidth_ofNat (show a < 2 ^ 7 by omega), setWidth_ofNat (show a < 2 ^ 8 by omega)]

theorem setWidth_byte_ofNat {a : Nat} (ha : a ≤ 0xFF) : (BitVec.ofNat 8 a).setWidth 32 = BitVec.ofNat 32 a :=
  setWidth_ofNat (show a < 2 ^ 8 by omega)

/-- A line whose range check is `c` has its command's word where `c` holds, and none elsewhere. -/
theorem asmWord_eq_ite {p : Params} {l : AsmLine} {i : Instr} {c : Prop} [Decidable c] {w : Word}
    (hc : l.inRange = decide c) (hi : asmExpand p l = some i) (hw : c → encode i = w) :
    asmWord p l = if c then some w else none := by
  rw [asmWord, asmCommand, hc, hi]
  by_cases h : c
  · simp [h, hw h]
  · simp [h]

/-- A line that has a word is in range, and the word is a command's. -/
theorem inRange_and_legalWord_of_asmWord {p : Params} {l : AsmLine} {w : Word} (h : asmWord p l = some w) :
    l.inRange = true ∧ legalWord w = true := by
  obtain ⟨i, hi, rfl⟩ := Option.map_eq_some_iff.mp h
  refine ⟨?_, legalWord_encode i⟩
  by_contra hr
  rw [asmCommand, if_neg hr] at hi
  cases hi

end Sys2Proof.Machine

open Sys2Proof Sys2Proof.Machine

/-- Settles O5: a word comes only from a line in range and is some command's word; then one row of rule R107's table
after the other. -/
theorem assemblerMakesLegalWords : Obligations.AssemblerMakesLegalWords := by
  refine ⟨fun _ _ _ => inRange_and_legalWord_of_asmWord, fun _ => ⟨rfl, rfl, rfl⟩, fun p a => ?_, fun p a v => ?_,
    fun p c t => ?_, fun p k sel n hk => ?_, fun p a b => ?_⟩
  · refine asmWord_eq_ite rfl rfl fun ha => ?_
    exact packWord_eq_or (v := 0) 0x1 rfl (setWidth_regAddr_ofNat ha)
  · refine asmWord_eq_ite rfl rfl fun ⟨ha, hv⟩ => ?_
    exact packWord_eq_or 0x2 (setWidth_byte_ofNat hv) (setWidth_regAddr_ofNat ha)
  · refine asmWord_eq_ite rfl rfl fun ⟨hc, ht⟩ => ?_
    exact packWord_settle_eq_or 0x3 (setWidth_ofNat (show t < 2 ^ 16 by omega)) (setWidth_byte_ofNat hc)
  · have hsel : ((selOf k).setWidth 8).setWidth 32 = sel := by
      simp only [List.mem_cons, List.not_mem_nil, or_false, Prod.mk.injEq] at hk
      rcases hk with ⟨rfl, rfl⟩ | ⟨rfl, rfl⟩ | ⟨rfl, rfl⟩ | ⟨rfl, rfl⟩ <;> rfl
    exact asmWord_eq_ite rfl rfl fun hn => packWord_eq_or 0x4 (setWidth_byte_ofNat hn) hsel
  · refine asmWord_eq_ite rfl rfl fun ⟨ha, hb⟩ => ?_
    exact packWord_eq_or 0x6 (setWidth_byte_ofNat hb) (setWidth_byte_ofNat ha)

/-- Settles O4: a command's word is computed, and decodes by `decode_encode`; the three refused words are evaluated. -/
theorem workedEncodings : Obligations.WorkedEncodings :=
  ⟨rfl, rfl, rfl, rfl, rfl, rfl, rfl, rfl, decode_encode (.rdreg 0x3F), decode_encode (.wrreg 0x0D 0x5D),
    decode_encode (.strobe 0x36 100), decode_encode (.tx .dim50 3), decode_encode (.tx .off 50), decode_encode .learn,
    decode_encode (.setaddr 0x12 0x34), decode_encode .init, decode_encode .nop, rfl, rfl, rfl⟩

end

section
/-! What the parser makes of a transmitted frame (rules R113, R115, R211). -/

namespace Sys2Proof.Machine

/-- The wire byte of each command code (rule R103). -/
theorem wireByte_of_mem {k : CommandCode} {w : Byte}
    (h : (k, w) ∈ [(CommandCode.off, (0x01 : Byte)), (.dim50, 0x02), (.dim100, 0x03), (.pair, 0xFF)]) :
    wireByte k = w := by
  simp only [List.mem_cons, List.not_mem_nil, or_false, Prod.mk.injEq] at h
  rcases h with ⟨rfl, rfl⟩ | ⟨rfl, rfl⟩ | ⟨rfl, rfl⟩ | ⟨rfl, rfl⟩ <;> rfl

/-- A frame that starts with a candidate that matches parses to that candidate's pair (rule R177). -/
theorem parse_of_match {a b w : Byte} (rest : List Byte) (h : ¬ (a = 0 ∧ b = 0)) :
    parse (Const.sync :: Const.hdr :: a :: b :: w :: Const.trl :: rest) = some { a := a, b := b } := by
  have hm : matchAt (Const.sync :: Const.hdr :: a :: b :: w :: Const.trl :: rest) = some { a := a, b := b } :=
    if_pos ⟨rfl, rfl, rfl, h⟩
  rw [parse, hm]

end Sys2Proof.Machine

open Sys2Proof Sys2Proof.Machine

/-- Settles O44: the candidate of rule R114 stands at the front of what is sent from the sync byte on. -/
theorem transmittedFrameParsesBack : Obligations.TransmittedFrameParsesBack := by
  intro p a b k w rest hne hk
  obtain rfl := wireByte_of_mem hk
  exact ⟨rfl, rfl, parse_of_match rest hne⟩

end

section
/-! TX (rules R210 to R219): its lines, one repetition, and all of them by induction on the repetitions that are left. -/

namespace Sys2Proof.Machine

section
variable {k : CommandCode} {n : Byte} {s : State} {l : Locals}

/-! One equation per line of TX that is no transaction. -/

theorem exec_tx_at_start (hs : s.seq = .run 0x4 .start l) : exec (.tx k n) s = .next (s.goto 0x4 .precondition l) :=
  atOp_run hs

theorem exec_tx_at_precondition (hs : s.seq = .run 0x4 .precondition l) (ha : s.addrValid = true) :
    exec (.tx k n) s = .next (s.goto 0x4 .setup l) :=
  (atOp_run hs).trans (by rw [ha]; rfl)

/-- Where TX's setup leads: to the first repetition, or to the end where there is none (rule R213). -/
def firstRep (n : Byte) (l : Locals) : Seq :=
  if n = 0 then .run 0x4 .finish l else .run 0x4 (.bus .txIdle .clear) { l with rep := 1 }

theorem exec_tx_at_setup (hs : s.seq = .run 0x4 .setup l) :
    exec (.tx k n) s = .next { s with repsDone := 0, seq := firstRep n l } := by
  refine (atOp_run hs).trans (congrArg Host.Outcome.next ?_)
  rw [firstRep]
  split <;> rfl

/-- Where the end of a repetition leads: to the next one while there is one, else to the end (rule R215). -/
def nextRep (n : Byte) (l : Locals) : Seq :=
  if l.rep < n.toNat then .run 0x4 (.bus .txIdle .clear) { l with rep := l.rep + 1 } else .run 0x4 .finish l

theorem exec_tx_at_countRep (hs : s.seq = .run 0x4 .countRep l) :
    exec (.tx k n) s = .next { s with repsDone := BitVec.ofNat 8 l.rep, seq := nextRep n l } := by
  refine (atOp_run hs).trans (congrArg Host.Outcome.next ?_)
  rw [nextRep]
  split <;> rfl

/-- A transaction line of TX that sends no payload (rules R150, R210): its whole transaction. -/
theorem tx_strobe {t : Txn} {c i0 : Byte} {d m : Nat} {bs : List Level} {rs : List Byte}
    (hx : txXfer sbfcParams s.addr k t = some (strobeXfer c d)) (hs : s.seq = .run 0x4 (.bus t .clear) l)
    (hb : s.env.brl = List.replicate m Level.asserted ++ Level.deasserted :: bs) (hr : s.env.rx = i0 :: rs)
    (ht : ∀ b, sbfcParams.readyTimeout = some b → m < b) :
    runInstr (.tx k n) (m + 6) s =
      .next (s.ranTxns (m + 1) (strobeEvents c d (m + 1) i0) bs rs (afterTxn sbfcParams (.tx k n) l t)) :=
  runInstr_txn (i := .tx k n) (is := []) hx hs hb hr rfl ht

/-- What the burst write of a frame to `adr` appends (rules R155, R211). -/
def burstEvents (adr : FixtureAddress) (k : CommandCode) (n : Nat) (i0 : Byte) (is : List Byte) : List Event :=
  xferTrace sbfcParams (burstXfer sbfcParams (txPayload sbfcParams adr.a adr.b k)) n i0 is

/-- TX's burst write: its whole transaction. -/
theorem tx_burst {i0 : Byte} {m : Nat} {bs : List Level} {is rs : List Byte}
    (hs : s.seq = .run 0x4 (.bus .txBurst .clear) l)
    (hb : s.env.brl = List.replicate m Level.asserted ++ Level.deasserted :: bs) (hr : s.env.rx = i0 :: (is ++ rs))
    (hl : is.length = 8) (ht : ∀ b, sbfcParams.readyTimeout = some b → m < b) :
    runInstr (.tx k n) (m + 22) s =
      .next (s.ranTxns (m + 1) (burstEvents s.addr k (m + 1) i0 is) bs rs (.run 0x4 (.bus .txFire .clear) l)) :=
  runInstr_txn (i := .tx k n) (x := burstXfer sbfcParams (txPayload sbfcParams s.addr.a s.addr.b k)) rfl hs hb hr hl ht

end

/-- What one repetition of TX receives: with the idle strobe, the flush strobe, the header of the burst write, its eight
payload bytes and the transmit strobe. -/
structure RepReceived where
  idle : Byte
  flush : Byte
  header : Byte
  payload : List Byte
  fire : Byte
  payload_length : payload.length = 8

/-- A repetition's received bytes, in order. -/
def RepReceived.bytes (x : RepReceived) : List Byte := x.idle :: x.flush :: x.header :: (x.payload ++ [x.fire])

/-- The events of one repetition with address `adr`, with `m1` to `m4` asserted samples before the deasserted one of each
wait (rule R217). -/
def repEvents (adr : FixtureAddress) (k : CommandCode) (m1 m2 m3 m4 : Nat) (x : RepReceived) : List Event :=
  strobeEvents sbfcParams.stbIdle sbfcParams.tStrobe (m1 + 1) x.idle ++
    strobeEvents sbfcParams.stbFtx sbfcParams.tStrobe (m2 + 1) x.flush ++
    burstEvents adr k (m3 + 1) x.header x.payload ++
    strobeEvents sbfcParams.stbTx sbfcParams.tTx (m4 + 1) x.fire

/-- One repetition of TX (rules R210, R215, R217). -/
theorem tx_repetition {k : CommandCode} {n : Byte} {s : State} {l : Locals} {m1 m2 m3 m4 : Nat} {bs : List Level}
    {rs : List Byte} (x : RepReceived) (hs : s.seq = .run 0x4 (.bus .txIdle .clear) l)
    (hb : s.env.brl = List.replicate m1 Level.asserted ++ Level.deasserted ::
      (List.replicate m2 Level.asserted ++ Level.deasserted ::
      (List.replicate m3 Level.asserted ++ Level.deasserted ::
      (List.replicate m4 Level.asserted ++ Level.deasserted :: bs))))
    (hr : s.env.rx = x.bytes ++ rs)
    (ht : ∀ b, sbfcParams.readyTimeout = some b → m1 < b ∧ m2 < b ∧ m3 < b ∧ m4 < b) :
    runInstr (.tx k n) (m1 + m2 + m3 + m4 + 41) s =
      .next (State.ranTxns { s with repsDone := BitVec.ofNat 8 l.rep } (m4 + 1) (repEvents s.addr k m1 m2 m3 m4 x) bs rs
        (nextRep n l)) := by
  have hr' : s.env.rx = x.idle :: x.flush :: x.header :: (x.payload ++ x.fire :: rs) := by
    rw [hr, RepReceived.bytes]
    simp
  have hidle := tx_strobe (k := k) (n := n) (t := .txIdle) rfl hs hb hr' fun b h => (ht b h).1
  have hflush := runInstr_trans hidle (tx_strobe (t := .txFlush) rfl rfl rfl rfl fun b h => (ht b h).2.1)
  rw [State.ranTxns_ranTxns] at hflush
  have hburst := runInstr_trans hflush (tx_burst rfl rfl rfl x.payload_length fun b h => (ht b h).2.2.1)
  rw [State.ranTxns_ranTxns] at hburst
  have hfire := runInstr_trans hburst (tx_strobe (t := .txFire) rfl rfl rfl rfl fun b h => (ht b h).2.2.2)
  rw [State.ranTxns_ranTxns] at hfire
  have hcount := runInstr_trans hfire (runInstr_one (exec_tx_at_countRep rfl))
  have hk : m1 + m2 + m3 + m4 + 41 = m1 + 6 + (m2 + 6) + (m3 + 22) + (m4 + 6) + 1 := by omega
  rw [hk, hcount]
  rfl

end Sys2Proof.Machine

open Sys2Proof Sys2Proof.Machine

/-- Settles O24: `tx_repetition`, with the events written out. -/
theorem txRepetitionTrace : Obligations.TxRepetitionTrace := by
  intro k w n s l m1 m2 m3 m4 bs i1 i2 i4 h is rs hk hs his hb hr ht
  obtain rfl := wireByte_of_mem hk
  have hr' : s.env.rx = RepReceived.bytes ⟨i1, i2, h, is, i4, his⟩ ++ rs := by
    rw [hr, RepReceived.bytes]
    simp
  refine ⟨⟨_, atOp_run hs⟩, (tx_repetition ⟨i1, i2, h, is, i4, his⟩ hs hb hr' ht).trans ?_⟩
  simp only [State.ranTxns, repEvents, burstEvents, xferTrace, List.append_assoc]
  rfl

end

section
/-! What a trace of transactions amounts to (rules R17, R136, R305): the bytes sent, the transactions and the least
time. -/

namespace Sys2Proof.Machine

theorem sentBytes_append (es es' : List Event) : sentBytes (es ++ es') = sentBytes es ++ sentBytes es' :=
  List.filterMap_append

theorem minTime_append (es es' : List Event) : minTime (es ++ es') = minTime es + minTime es' := by
  simp [minTime]

/-- The exchanges of a payload send its bytes, each after a gap, and start no transaction (rule R136). -/
theorem payloadEvents_measures (g : Nat) : ∀ (os is : List Byte), is.length = os.length →
    sentBytes ((os.zip is).flatMap fun oi => [.gap g, .x oi.1 oi.2]) = os ∧
    transactions ((os.zip is).flatMap fun oi => [.gap g, .x oi.1 oi.2]) = 0 ∧
    minTime ((os.zip is).flatMap fun oi => [.gap g, .x oi.1 oi.2]) = os.length * g
  | [], _, _ => ⟨rfl, rfl, (Nat.zero_mul g).symm⟩
  | o :: os, i :: is, hl => by
    obtain ⟨hsent, htxns, htime⟩ := payloadEvents_measures g os is (by simpa using hl)
    rw [List.zip_cons_cons, List.flatMap_cons, sentBytes_append, transactions_append, minTime_append, hsent, htxns, htime,
      List.length_cons, Nat.succ_mul]
    exact ⟨rfl, rfl, Nat.add_comm g _⟩
  | _ :: _, [], hl => nomatch hl

/-- One transaction (rules R136, R305): its header and payload are sent, and its gaps and its final delay take time. -/
theorem xferTrace_measures (p : Params) (x : Xfer) (n : Nat) (i0 : Byte) {is : List Byte}
    (hl : is.length = x.payload.length) :
    sentBytes (xferTrace p x n i0 is) = x.header :: x.payload ∧ transactions (xferTrace p x n i0 is) = 1 ∧
    minTime (xferTrace p x n i0 is) = x.payload.length * p.tByte + x.settle := by
  obtain ⟨hsent, htxns, htime⟩ := payloadEvents_measures p.tByte x.payload is hl
  simp only [xferTrace, sentBytes_append, transactions_append, minTime_append, hsent, htxns, htime]
  simp [sentBytes, transactions, minTime, Event.minTime]

/-- A strobe is a transaction without a payload (rule R150). -/
theorem strobeEvents_measures (c : Byte) (d n : Nat) (i0 : Byte) :
    sentBytes (strobeEvents c d n i0) = [c] ∧ transactions (strobeEvents c d n i0) = 1 ∧
    minTime (strobeEvents c d n i0) = d := by
  obtain ⟨hsent, htxns, htime⟩ := xferTrace_measures sbfcParams (strobeXfer c d) n i0 (is := []) rfl
  exact ⟨hsent, htxns, htime.trans (by simp [strobeXfer])⟩

end Sys2Proof.Machine
end

section
/-! A whole TX (rules R210 to R218), by induction on the repetitions that are left. -/

namespace Sys2Proof.Machine

/-- `es` sends `j` identical frames to `adr`, in the transactions and the time that rules R217, R218 and R305 give
them. -/
structure SendsFrames (adr : FixtureAddress) (k : CommandCode) (j : Nat) (es : List Event) : Prop where
  sent : sentBytes es = (List.replicate j (sbfcParams.stbIdle :: sbfcParams.stbFtx :: sbfcParams.burstMarker ::
    (txPayload sbfcParams adr.a adr.b k ++ [sbfcParams.stbTx]))).flatten
  txns : transactions es = 4 * j
  time : 263 * j ≤ minTime es

theorem SendsFrames.append {adr : FixtureAddress} {k : CommandCode} {i j : Nat} {es es' : List Event}
    (h : SendsFrames adr k i es) (h' : SendsFrames adr k j es') : SendsFrames adr k (i + j) (es ++ es') where
  sent := by rw [sentBytes_append, h.sent, h'.sent, List.replicate_add, List.flatten_append]
  txns := by rw [transactions_append, h.txns, h'.txns, Nat.mul_add]
  time := by
    have := h.time
    have := h'.time
    rw [minTime_append]
    omega

/-- Rule R9: no configuration lowers a delay of the source. -/
theorem one_le_tByte : 1 ≤ sbfcParams.tByte := by
  have h := sbfcParams_legal
  simp only [Params.legal, Bool.and_eq_true, decide_eq_true_eq] at h
  omega

theorem tTx_ge_255 : 255 ≤ sbfcParams.tTx := by
  have h := sbfcParams_legal
  simp only [Params.legal, Bool.and_eq_true, decide_eq_true_eq] at h
  omega

/-- One repetition sends one frame: its eight gaps and the delay after the transmit strobe take 263 microseconds (rule
R305). -/
theorem sendsFrames_repEvents (adr : FixtureAddress) (k : CommandCode) (m1 m2 m3 m4 : Nat) (x : RepReceived) :
    SendsFrames adr k 1 (repEvents adr k m1 m2 m3 m4 x) := by
  obtain ⟨hsent1, htxns1, htime1⟩ := strobeEvents_measures sbfcParams.stbIdle sbfcParams.tStrobe (m1 + 1) x.idle
  obtain ⟨hsent2, htxns2, htime2⟩ := strobeEvents_measures sbfcParams.stbFtx sbfcParams.tStrobe (m2 + 1) x.flush
  obtain ⟨hsent3, htxns3, htime3⟩ := xferTrace_measures sbfcParams
    (burstXfer sbfcParams (txPayload sbfcParams adr.a adr.b k)) (m3 + 1) x.header x.payload_length
  obtain ⟨hsent4, htxns4, htime4⟩ := strobeEvents_measures sbfcParams.stbTx sbfcParams.tTx (m4 + 1) x.fire
  constructor
  · simp only [repEvents, burstEvents, sentBytes_append, hsent1, hsent2, hsent3, hsent4]
    rfl
  · simp only [repEvents, burstEvents, transactions_append, htxns1, htxns2, htxns3, htxns4]
  · have hlen : (burstXfer sbfcParams (txPayload sbfcParams adr.a adr.b k)).payload.length = 8 := rfl
    have hgap := one_le_tByte
    have hfire := tTx_ge_255
    rw [hlen] at htime3
    simp only [repEvents, burstEvents, minTime_append, htime1, htime2, htime3, htime4]
    omega

/-- The received bytes of one repetition, split off those of all of them. -/
theorem exists_repReceived {is : List Byte} {j : Nat} (h : is.length = 12 * (j + 1)) :
    ∃ (x : RepReceived) (is' : List Byte), is = x.bytes ++ is' ∧ is'.length = 12 * j := by
  match is, h with
  | i1 :: i2 :: i3 :: rest, h =>
    have hrest : rest.length = 8 + (12 * j + 1) := by
      simp only [List.length_cons] at h
      omega
    have htail : (rest.drop 8).length = 12 * j + 1 := by rw [List.length_drop, hrest, Nat.add_sub_cancel_left]
    obtain ⟨i4, is', hdrop⟩ := List.exists_cons_of_length_eq_add_one htail
    have hpayload : (rest.take 8).length = 8 := by rw [List.length_take, hrest, Nat.min_eq_left (Nat.le_add_right ..)]
    refine ⟨⟨i1, i2, i3, rest.take 8, i4, hpayload⟩, is', ?_, ?_⟩
    · simp [RepReceived.bytes, ← hdrop]
    · simpa [hdrop] using htail
  | [], h | [_], h | [_, _], h =>
    simp only [List.length_cons, List.length_nil] at h
    omega

/-- One repetition, its draws listed per wait and per repetition. -/
theorem tx_next_repetition {k : CommandCode} {n : Byte} {s : State} {l : Locals} {w1 w2 w3 w4 : Nat} {ws : List Nat}
    {bs : List Level} {rs : List Byte} (x : RepReceived) (hs : s.seq = .run 0x4 (.bus .txIdle .clear) l)
    (hb : s.env.brl = waitDraws (w1 :: w2 :: w3 :: w4 :: ws) ++ bs) (hr : s.env.rx = x.bytes ++ rs)
    (ht : waitsAllowed sbfcParams (w1 :: w2 :: w3 :: w4 :: ws)) :
    runInstr (.tx k n) (w1 + w2 + w3 + w4 + 41) s =
      .next (State.ranTxns { s with repsDone := BitVec.ofNat 8 l.rep } (w4 + 1) (repEvents s.addr k w1 w2 w3 w4 x)
        (waitDraws ws ++ bs) rs (nextRep n l)) := by
  simp only [waitDraws_cons] at hb
  exact tx_repetition x hs hb hr fun b h =>
    ⟨ht b h w1 (by simp), ht b h w2 (by simp), ht b h w3 (by simp), ht b h w4 (by simp)⟩

/-- All the repetitions from number `l.rep` on, with `j` more after it (rules R215, R216): TX comes to its last line. -/
theorem tx_repetitions {k : CommandCode} {n : Byte} {bs : List Level} {rs : List Byte} (j : Nat) :
    ∀ (is : List Byte) (ws : List Nat) (s : State) (l : Locals), s.seq = .run 0x4 (.bus .txIdle .clear) l →
      l.rep + j = n.toNat → is.length = 12 * (j + 1) → ws.length = 4 * (j + 1) → s.env.brl = waitDraws ws ++ bs →
      s.env.rx = is ++ rs → waitsAllowed sbfcParams ws →
      ∃ es l', runInstr (.tx k n) (41 * (j + 1) + ws.sum) s = .next (State.ranTxns { s with repsDone := n }
        (wcntAfter ws s.wcnt) es bs rs (.run 0x4 .finish l')) ∧ SendsFrames s.addr k (j + 1) es := by
  induction j with
  | zero =>
    intro is ws s l hs hrep his hw hb hr ht
    obtain ⟨w1, w2, w3, w4, ws', rfl, hw'⟩ := exists_four_waits hw
    obtain rfl : ws' = [] := List.length_eq_zero_iff.mp hw'
    obtain ⟨x, is', rfl, his'⟩ := exists_repReceived his
    obtain rfl : is' = [] := List.length_eq_zero_iff.mp his'
    have hlast := tx_next_repetition (k := k) (n := n) x hs hb (by simpa using hr) ht
    have hk : 41 * (0 + 1) + [w1, w2, w3, w4].sum = w1 + w2 + w3 + w4 + 41 := by
      simp only [List.sum_cons, List.sum_nil]
      omega
    have hmax : l.rep = n.toNat := hrep
    rw [nextRep, if_neg (by simp [hmax]), hmax, BitVec.ofNat_toNat, BitVec.setWidth_eq] at hlast
    exact ⟨_, l, by rw [hk]; exact hlast, sendsFrames_repEvents s.addr k w1 w2 w3 w4 x⟩
  | succ j ih =>
    intro is ws s l hs hrep his hw hb hr ht
    obtain ⟨w1, w2, w3, w4, ws', rfl, hw'⟩ := exists_four_waits hw
    obtain ⟨x, is', rfl, his'⟩ := exists_repReceived his
    have hfirst := tx_next_repetition (k := k) (n := n) (rs := is' ++ rs) x hs hb (by simpa using hr) ht
    rw [nextRep, if_pos (by omega)] at hfirst
    generalize hu : State.ranTxns _ (w4 + 1) .. = u at hfirst
    obtain ⟨es, l', hrest, hes⟩ := ih is' ws' u { l with rep := l.rep + 1 } (by subst hu; rfl)
      (by rw [← hrep]; exact Nat.add_right_comm ..) his' hw' (by subst hu; rfl) (by subst hu; rfl)
      fun b hbound m hm => ht b hbound m (by simp [hm])
    have hk : 41 * (j + 1 + 1) + (w1 :: w2 :: w3 :: w4 :: ws').sum =
        w1 + w2 + w3 + w4 + 41 + (41 * (j + 1) + ws'.sum) := by
      simp only [List.sum_cons]
      omega
    have haddr : u.addr = s.addr := by subst hu; rfl
    refine ⟨repEvents s.addr k w1 w2 w3 w4 x ++ es, l', ?_, ?_⟩
    · rw [hk, runInstr_trans hfirst hrest, ← hu]
      simp only [State.ranTxns, wcntAfter_cons, List.append_assoc]
    · rw [Nat.add_comm (j + 1) 1]
      exact (sendsFrames_repEvents s.addr k w1 w2 w3 w4 x).append (haddr ▸ hes)

/-- The lines of TX before its first repetition (rules R212, R213, R215). -/
theorem tx_start_to_first {k : CommandCode} {n : Byte} {s : State} {l : Locals} (hs : s.seq = .run 0x4 .start l)
    (ha : s.addrValid = true) : runInstr (.tx k n) 3 s = .next { s with repsDone := 0, seq := firstRep n l } :=
  runInstr_trans (runInstr_one (exec_tx_at_start hs))
    (runInstr_trans (runInstr_one (exec_tx_at_precondition (s := s.goto 0x4 .precondition l) rfl ha))
      (runInstr_one (exec_tx_at_setup (s := s.goto 0x4 .setup l) rfl)))

end Sys2Proof.Machine

open Sys2Proof Sys2Proof.Machine

/-- Settles O25: three steps lead to the first repetition, `tx_repetitions` through all of them, and one step finishes;
with a count of 0 the first three lead straight to the last. -/
theorem txSendsIdenticalFrames : Obligations.TxSendsIdenticalFrames := by
  intro k w n s l ws bs is rs hk hs ha his hw hb hr ht
  obtain rfl := wireByte_of_mem hk
  refine ⟨⟨_, exec_tx_at_start hs⟩, ?_⟩
  have hstart := tx_start_to_first (k := k) (n := n) hs ha
  by_cases hn : n = 0
  · subst hn
    obtain rfl : ws = [] := List.length_eq_zero_iff.mp hw
    obtain rfl : is = [] := List.length_eq_zero_iff.mp his
    rw [firstRep, if_pos rfl] at hstart
    have hend := runInstr_trans hstart (runInstr_one (exec_tx_at_finish k 0 rfl))
    refine ⟨[], hend.trans ?_, rfl, rfl, Nat.le_refl 0⟩
    rw [if_pos rfl, List.append_nil, ← show s.env.brl = bs from hb, ← show s.env.rx = rs from hr]
    rfl
  · have hpos : n.toNat ≠ 0 := fun h => hn (BitVec.eq_of_toNat_eq h)
    obtain ⟨j, hj⟩ : ∃ j, n.toNat = j + 1 := Nat.exists_eq_succ_of_ne_zero hpos
    rw [hj] at his hw
    rw [firstRep, if_neg hn] at hstart
    obtain ⟨es, l', hreps, hes⟩ := tx_repetitions (k := k) (n := n) j is ws
      { s with repsDone := 0, seq := .run 0x4 (.bus .txIdle .clear) { l with rep := 1 } } { l with rep := 1 } rfl
      (by rw [hj]; exact Nat.add_comm ..) his hw hb hr ht
    have hend := runInstr_trans hstart (runInstr_trans hreps (runInstr_one (exec_tx_at_finish k n rfl)))
    have hsteps : 41 * (j + 1) + 4 + ws.sum = 3 + (41 * (j + 1) + ws.sum + 1) := by omega
    rw [if_neg hn, hj, hsteps]
    exact ⟨es, hend, hes.sent, hes.txns, hes.time⟩

end

section
/-! The commands of one transaction, RDREG, WRREG and STROBE (rules R140 to R152): the lines before the transaction, the
transaction, and the finish line that the section on last lines gives. -/

namespace Sys2Proof.Machine

section
variable {s : State} {l : Locals} {m : Nat} {bs : List Level} {rs : List Byte}

/-! The lines that stand before the transaction. -/

theorem exec_rdreg_at_start (a : RegAddr) (hs : s.seq = .run 0x1 .start l) :
    exec (.rdreg a) s = .next (s.goto 0x1 .operands l) :=
  atOp_run hs

theorem exec_rdreg_at_operands (a : RegAddr) (hs : s.seq = .run 0x1 .operands l) :
    exec (.rdreg a) s = .next (s.goto 0x1 (.bus .cmd .clear) l) :=
  atOp_run hs

theorem exec_wrreg_at_start (a : RegAddr) (v : Byte) (hs : s.seq = .run 0x2 .start l) :
    exec (.wrreg a v) s = .next (s.goto 0x2 (.bus .cmd .clear) l) :=
  atOp_run hs

theorem exec_strobe_at_start (c : Byte) (d : BitVec 16) (hs : s.seq = .run 0x3 .start l) :
    exec (.strobe c d) s = .next (s.goto 0x3 (.bus .cmd .clear) l) :=
  atOp_run hs

/-- The only transaction of such a command `i`, which leads to its last line; a reading one hands over the byte received
with its payload in the locals. -/
theorem runInstr_cmdTxn {i : Instr} {x : Xfer} {i0 : Byte} {is : List Byte}
    (hx : xferOf sbfcParams s.addr l i .cmd = some x) (hs : s.seq = .run (opcode i) (.bus .cmd .clear) l)
    (hb : s.env.brl = List.replicate m Level.asserted ++ Level.deasserted :: bs) (hr : s.env.rx = i0 :: (is ++ rs))
    (hl : is.length = x.payload.length) (ht : ∀ n, sbfcParams.readyTimeout = some n → m < n) :
    runInstr i (m + 6 + 2 * x.payload.length) s =
      .next (s.ranTxns (m + 1) (xferTrace sbfcParams x (m + 1) i0 is) bs rs
        (.run (opcode i) .finish (recvLocals x l is))) :=
  runInstr_txn hx hs hb hr hl ht

end

end Sys2Proof.Machine

open Sys2Proof Sys2Proof.Machine

/-- Settles O18: two lines lead to the read, which leaves its byte in the local `v`, and the finish line writes it. -/
theorem rdregCompletes : Obligations.RdregCompletes := by
  intro a s l m bs i0 v rs hs hb hr ht
  have hlines := runInstr_trans (runInstr_one (exec_rdreg_at_start a hs))
    (runInstr_one (exec_rdreg_at_operands a (s := s.goto 0x1 .operands l) rfl))
  have hread := runInstr_cmdTxn (i := .rdreg a) (x := readXfer sbfcParams a) (is := [v])
    (s := s.goto 0x1 (.bus .cmd .clear) l) rfl rfl hb hr rfl ht
  have hfinish := runInstr_one (exec_rdreg_at_finish a (s := s.ranTxns (m + 1)
    (xferTrace sbfcParams (readXfer sbfcParams a) (m + 1) i0 [v]) bs rs (.run 0x1 .finish { l with v := v })) rfl)
  exact ⟨⟨_, exec_rdreg_at_start a hs⟩, _, runInstr_trans hlines (runInstr_trans hread hfinish)⟩

/-- Settles O20: the write follows the first line and the finish line follows it. -/
theorem wrregCompletes : Obligations.WrregCompletes := by
  intro a v s l m bs i0 i1 rs hs hb hr ht
  have hline := runInstr_one (exec_wrreg_at_start a v hs)
  have hwrite := runInstr_cmdTxn (i := .wrreg a v) (x := writeXfer sbfcParams a v) (is := [i1])
    (s := s.goto 0x2 (.bus .cmd .clear) l) rfl rfl hb hr rfl ht
  have hrun := runInstr_trans hline (runInstr_trans hwrite (runInstr_one (exec_wrreg_at_finish a v rfl)))
  exact ⟨⟨_, exec_wrreg_at_start a v hs⟩, _, hrun⟩

/-- Settles O21: the same with a transaction of no payload, whose settle time is the operand. -/
theorem strobeCompletes : Obligations.StrobeCompletes := by
  intro c d s l m bs i0 rs hs hb hr ht
  have hline := runInstr_one (exec_strobe_at_start c d hs)
  have hstrobe := runInstr_cmdTxn (i := .strobe c d) (x := strobeXfer c d.toNat) (is := [])
    (s := s.goto 0x3 (.bus .cmd .clear) l) rfl rfl hb hr rfl ht
  have hrun := runInstr_trans hline (runInstr_trans hstrobe (runInstr_one (exec_strobe_at_finish c d rfl)))
  exact ⟨⟨_, exec_strobe_at_start c d hs⟩, _, hrun⟩

end

section
/-! Who writes RESULT (rules R45, R143). -/

namespace Sys2Proof.Machine

/-- No step of a transaction writes RESULT: what it receives stays in the locals (rule R143). -/
theorem exec_bus_keeps_rdata {i : Instr} {s u : State} {t : Txn} {b : BusPos} {l : Locals} (h : exec i s = .next u)
    (hs : s.seq = .run (opcode i) (.bus t b) l) : u.rdata = s.rdata := by
  obtain ⟨x, -, hb⟩ := exec_bus h hs
  rw [(busStep_written hb).1]
  rfl

/-- RDREG writes RESULT at its last line only. -/
theorem exec_rdreg_writes_rdata {a : RegAddr} {s t : State} (h : exec (.rdreg a) s = .next t)
    (hne : t.rdata ≠ s.rdata) : ∃ l, s.seq = .run 0x1 .finish l := by
  obtain ⟨pos, l, hs⟩ := exec_next_running h
  have hline := (atOp_run hs).symm.trans h
  cases pos
  case bus => exact absurd (exec_bus_keeps_rdata h hs) hne
  case finish => exact ⟨l, hs⟩
  case start | operands => cases hline; exact absurd rfl hne
  all_goals cases hline

end Sys2Proof.Machine

open Sys2Proof Sys2Proof.Machine

/-- Settles O19: of the commands only RDREG writes RESULT (`exec_keeps_rdata`), and it does so at its last line. -/
theorem onlyRdregFinishWritesResult : Obligations.OnlyRdregFinishWritesResult := by
  refine ⟨fun a s l hs => ⟨_, exec_rdreg_at_finish a hs, rfl, rfl⟩, fun i s t h hword => ?_⟩
  have hne : t.rdata ≠ s.rdata := fun hk => hword (congrArg (BitVec.setWidth 32) hk)
  by_cases hi : ∃ a, i = .rdreg a
  · obtain ⟨a, rfl⟩ := hi
    obtain ⟨l, hs⟩ := exec_rdreg_writes_rdata h hne
    exact ⟨a, l, rfl, hs⟩
  · exact absurd (exec_keeps_rdata h fun a ha => hi ⟨a, ha⟩) hne

end

section
/-! The readiness wait while its samples are asserted (rules R131, R265 to R267). -/

namespace Sys2Proof.Machine

/-- The meanings of the modelled SBFC are those of its parameters. -/
theorem exec_eq_commandStep (i : Instr) (s : State) : exec i s = commandStep sbfcParams i s := by
  cases i <;> rfl

/-- The abort of a timed-out wait as one update: LEARN's also settles LSTATE (rules R266, R267). -/
theorem stopOf_eq (i : Instr) (s : State) :
    stopOf i s = { s with
      lstate := if i = .learn then (if s.lstate = .found then .found else .idle) else s.lstate
      done := .notResponding
      busy := false
      seq := .idle } := by
  unfold stopOf
  split <;> rfl

/-- `s` after `n` asserted samples none of which aborts: they are counted, and the draws `bs` are left (rule R131). -/
def State.waited (s : State) (n : Nat) (bs : List Level) : State :=
  { s with
    wcnt := s.wcnt + n
    env := { s.env with brl := bs } }

theorem State.waited_waited (s : State) (m n : Nat) (bs bs' : List Level) :
    (s.waited m bs).waited n bs' = s.waited (m + n) bs' := by
  simp only [State.waited, Nat.add_assoc]

/-- An asserted sample at any transaction line of any command: it aborts where it reaches the bound, and is only counted
elsewhere (rule R131). -/
theorem commandStep_asserted {p : Params} {i : Instr} {t : Txn} {l : Locals} {x : Xfer} {s : State} {bs : List Level}
    (hx : xferOf p s.addr l i t = some x) (hs : s.seq = .run (opcode i) (.bus t .sample) l)
    (hb : s.env.brl = .asserted :: bs) :
    commandStep p i s =
      .next (if p.readyTimeout = some (s.wcnt + 1) then stopOf i (s.waited 1 bs) else s.waited 1 bs) := by
  obtain ⟨hnext, hpop⟩ := State.brl_cons hb
  rw [commandStep_bus hx hs, busStep, State.sampleBrl, hnext, hpop]
  rfl

/-- A wait without a bound through any number of asserted samples, by induction on their number (rule R265). -/
theorem runFn_asserted_of_no_timeout {p : Params} {i : Instr} {t : Txn} {l : Locals} {x : Xfer} {bs : List Level}
    (hp : p.readyTimeout = none) :
    ∀ (m : Nat) (s : State), xferOf p s.addr l i t = some x → s.seq = .run (opcode i) (.bus t .sample) l →
      s.env.brl = List.replicate m .asserted ++ bs → runFn (commandStep p i) m s = .next (s.waited m bs)
  | 0, s, _, _, hb => by
    rw [← show s.env.brl = bs from hb]
    rfl
  | m + 1, s, hx, hs, hb => by
    have hfirst := commandStep_asserted (bs := List.replicate m Level.asserted ++ bs) hx hs hb
    rw [if_neg (by simp [hp])] at hfirst
    have hrest := runFn_asserted_of_no_timeout hp m (s.waited 1 (List.replicate m Level.asserted ++ bs)) hx hs rfl
    rw [runFn_succ _ m hfirst, hrest, State.waited_waited, Nat.add_comm]

end Sys2Proof.Machine

open Sys2Proof Sys2Proof.Machine

/-- Settles O35: the sample that reaches the bound is an abort (`commandStep_asserted`), written out by `stopOf_eq`. -/
theorem timedOutWaitAborts : Obligations.TimedOutWaitAborts := by
  refine ⟨exec_eq_commandStep, fun p i t l x s bs hx hs hb ht => ?_⟩
  rw [commandStep_asserted hx hs hb, if_pos ht, stopOf_eq]
  rfl

/-- Settles O36 by induction on the number of samples: none of them reaches a bound, so each is only counted. -/
theorem endlessWaitWithoutTimeout : Obligations.EndlessWaitWithoutTimeout :=
  fun _ _ _ _ _ s m _ hp hx hs hb => runFn_asserted_of_no_timeout hp m s hx hs hb

end

section
/-! The parser as rule R177's equivalent form has it: the pair of the smallest offset that is a candidate. -/

namespace Sys2Proof.Machine

/-- The bytes of `f` from offset `k` on are a candidate with pair `r` (rule R177): the marks match inside the frame, the
byte at `k + 4` is not compared, and the pair is not the sentinel. -/
def CandidateAt (f : List Byte) (k : Nat) (r : FixtureAddress) : Prop :=
  k + 6 ≤ f.length ∧ f[k]? = some 0x55 ∧ f[k + 1]? = some 0x01 ∧ f[k + 2]? = some r.a ∧ f[k + 3]? = some r.b ∧
    f[k + 5]? = some 0xAA ∧ ¬ (r.a = 0 ∧ r.b = 0)

/-- An offset past the first byte is an offset into the rest. -/
theorem candidateAt_cons_succ {f0 : Byte} {f : List Byte} {k : Nat} {r : FixtureAddress} :
    CandidateAt (f0 :: f) (k + 1) r ↔ CandidateAt f k r := by
  have hlen : k + 1 + 6 ≤ (f0 :: f).length ↔ k + 6 ≤ f.length := by
    rw [List.length_cons]
    omega
  exact and_congr_left' hlen

/-- `matchAt` tests the candidate at offset 0. -/
theorem matchAt_eq_some_iff {f : List Byte} {r : FixtureAddress} : matchAt f = some r ↔ CandidateAt f 0 r := by
  unfold matchAt
  split
  case h_1 f0 f1 f2 f3 f4 f5 rest =>
    rw [Option.ite_none_right_eq_some]
    constructor
    · rintro ⟨⟨rfl, rfl, rfl, hpair⟩, hr⟩
      cases hr
      exact ⟨by simp, rfl, rfl, rfl, rfl, rfl, hpair⟩
    · rintro ⟨-, hsync, hhdr, ha, hb, htrl, hpair⟩
      cases hsync; cases hhdr; cases ha; cases hb; cases htrl
      exact ⟨⟨rfl, rfl, rfl, hpair⟩, rfl⟩
  case h_2 hshort =>
    refine ⟨nofun, fun hcand => ?_⟩
    match f, hcand.1 with
    | f0 :: f1 :: f2 :: f3 :: f4 :: f5 :: rest, _ => exact absurd rfl (hshort f0 f1 f2 f3 f4 f5 rest)

theorem matchAt_eq_none_iff {f : List Byte} : matchAt f = none ↔ ∀ r, ¬ CandidateAt f 0 r := by
  simp only [Option.eq_none_iff_forall_ne_some, ne_eq, matchAt_eq_some_iff]

theorem parse_cons_of_match {f0 : Byte} {f : List Byte} {r : FixtureAddress} (h : matchAt (f0 :: f) = some r) :
    parse (f0 :: f) = some r := by
  rw [parse, h]

theorem parse_cons_of_no_match {f0 : Byte} {f : List Byte} (h : matchAt (f0 :: f) = none) :
    parse (f0 :: f) = parse f := by
  rw [parse, h]

/-- The parser finds nothing exactly where no offset is a candidate. -/
theorem parse_eq_none_iff (f : List Byte) : parse f = none ↔ ∀ k r, ¬ CandidateAt f k r := by
  induction f with
  | nil => exact ⟨fun _ _ _ h => absurd h.1 (by simp), fun _ => rfl⟩
  | cons f0 f ih =>
    cases hm : matchAt (f0 :: f) with
    | some r =>
      rw [parse_cons_of_match hm]
      exact ⟨nofun, fun h => absurd (matchAt_eq_some_iff.mp hm) (h 0 r)⟩
    | none =>
      rw [parse_cons_of_no_match hm, ih]
      refine ⟨fun h k r => ?_, fun h k r hk => h (k + 1) r (candidateAt_cons_succ.mpr hk)⟩
      cases k with
      | zero => exact matchAt_eq_none_iff.mp hm r
      | succ k => exact fun hk => h k r (candidateAt_cons_succ.mp hk)

/-- The parser's pair is that of the first offset that is a candidate. -/
theorem parse_eq_some_iff (f : List Byte) (r : FixtureAddress) :
    parse f = some r ↔ ∃ k, CandidateAt f k r ∧ ∀ j r', j < k → ¬ CandidateAt f j r' := by
  induction f with
  | nil => exact ⟨nofun, fun ⟨_, hk, _⟩ => nomatch hk.1⟩
  | cons f0 f ih =>
    cases hm : matchAt (f0 :: f) with
    | some r0 =>
      rw [parse_cons_of_match hm, ← hm, matchAt_eq_some_iff]
      refine ⟨fun h => ⟨0, h, nofun⟩, fun ⟨k, hk, hfirst⟩ => ?_⟩
      cases k with
      | zero => exact hk
      | succ k => exact absurd (matchAt_eq_some_iff.mp hm) (hfirst 0 r0 k.succ_pos)
    | none =>
      have hzero := matchAt_eq_none_iff.mp hm
      rw [parse_cons_of_no_match hm, ih]
      constructor
      · rintro ⟨k, hk, hfirst⟩
        refine ⟨k + 1, candidateAt_cons_succ.mpr hk, fun j r' hj => ?_⟩
        cases j with
        | zero => exact hzero r'
        | succ j => exact fun hc => hfirst j r' (Nat.lt_of_succ_lt_succ hj) (candidateAt_cons_succ.mp hc)
      · rintro ⟨k, hk, hfirst⟩
        cases k with
        | zero => exact absurd hk (hzero r)
        | succ k =>
          exact ⟨k, candidateAt_cons_succ.mp hk, fun j r' hj hc =>
            hfirst (j + 1) r' (Nat.succ_lt_succ hj) (candidateAt_cons_succ.mpr hc)⟩

end Sys2Proof.Machine

open Sys2Proof Sys2Proof.Machine

/-- Settles O42: the statement's `hit` is `CandidateAt`, and each half is an induction on the frame. -/
theorem parserTakesFirstMatch : Obligations.ParserTakesFirstMatch :=
  fun f => ⟨parse_eq_some_iff f, parse_eq_none_iff f⟩

/-- Settles O43: each frame of rule R187 is parsed by evaluation. -/
theorem parserWorkedExamples : Obligations.ParserWorkedExamples :=
  ⟨rfl, rfl, rfl, rfl, rfl, rfl, rfl, rfl, rfl⟩

end

section
/-! The start of LEARN, an attempt without a frame and the ends of attempts (rules R170 to R175, R181 to R183). -/

namespace Sys2Proof.Machine

section
variable {s : State} {l : Locals}

/-- LEARN has nothing to do where there is an address (rules R170, R270). -/
theorem exec_learn_at_precondition_known (hs : s.seq = .run 0x5 .precondition l) (ha : s.addrValid = true) :
    exec .learn s = .next (s.finish .ok) :=
  (atOp_run hs).trans (by rw [ha]; rfl)

/-- The lines of LEARN before its first attempt (rules R170, R171). -/
theorem learn_start_to_attempt (hs : s.seq = .run 0x5 .start l) (ha : s.addrValid = false) :
    runInstr .learn 3 s =
      .next ({ s with lstate := .listening, attempts := 0 }.goto 0x5 .attempt { l with att := 1 }) := by
  have hstart := runInstr_one (exec_learn_at_start hs)
  have hcheck := runInstr_trans hstart
    (runInstr_one (exec_learn_at_precondition (s := s.goto 0x5 .precondition l) rfl ha))
  exact runInstr_trans hcheck (runInstr_one (exec_learn_at_setup (s := s.goto 0x5 .setup l) rfl))

/-- A match ends LEARN (rule R183). -/
theorem exec_learn_at_checkMatch_found (hs : s.seq = .run 0x5 .checkMatch l) (hm : l.m = true) :
    exec .learn s = .next (s.finish .found) :=
  (atOp_run hs).trans (congrArg Host.Outcome.next (if_pos hm))

/-- The two last lines of LEARN without a match (rule R181). -/
theorem learn_exhausted_to_idle (hs : s.seq = .run 0x5 .exhausted l) :
    runInstr .learn 2 s = .next ({ s with lstate := .exhausted }.finish .exhausted) :=
  runInstr_trans (runInstr_one (exec_learn_at_exhausted hs))
    (runInstr_one (exec_learn_at_finish (s := { s with lstate := .exhausted }.goto 0x5 .finish l) rfl))

end

end Sys2Proof.Machine

open Sys2Proof Sys2Proof.Machine

/-- Settles O31: `learn_attempt_without_frame`, with the events written out. -/
theorem attemptWithoutFrame : Obligations.AttemptWithoutFrame := by
  intro s l m1 m2 m3 m4 bs i1 i2 len i3 i4 rs hs hlen hb hr ht
  refine ⟨⟨_, exec_learn_at_attempt hs⟩, _, (learn_attempt_without_frame hs hlen hb hr ht).trans ?_⟩
  simp only [State.ranTxns, attemptEvents, List.append_assoc]
  rfl

/-- Settles O29: the precondition line, after the first one, finishes. -/
theorem learnWithKnownAddressDoesNothing : Obligations.LearnWithKnownAddressDoesNothing := by
  intro s l hs ha
  have hstart := exec_learn_at_start hs
  have hcheck := exec_learn_at_precondition_known (s := s.goto 0x5 .precondition l) rfl ha
  exact ⟨⟨_, hstart⟩, runInstr_trans (runInstr_one hstart) (runInstr_one hcheck)⟩

/-- Settles O30: the setup line, on its own and as the third line of the command. -/
theorem learnStartsListening : Obligations.LearnStartsListening :=
  fun _ _ ha => ⟨exec_learn_at_setup, fun hs => ⟨3, learn_start_to_attempt hs ha⟩⟩

/-- Settles O33: the three outcomes of the `if m = FOUND` line; without a match `nextAttempt` says which. -/
theorem learnOutcomes : Obligations.LearnOutcomes := by
  intro s l
  refine ⟨exec_learn_at_checkMatch_found, fun hs hm hatt => ?_, fun hs hm hatt => ?_⟩
  · rw [exec_learn_at_checkMatch hs hm, nextAttempt, if_pos hatt]
  · have hcheck := exec_learn_at_checkMatch hs hm
    rw [nextAttempt, if_neg hatt] at hcheck
    exact runInstr_trans (runInstr_one hcheck) (learn_exhausted_to_idle rfl)

end

section
/-! A receive attempt that reads a frame (rules R172 to R184): its lines, one byte, all bytes by induction on those that
are left, the parse, and the whole attempt. -/

namespace Sys2Proof.Machine

section
variable {s : State} {l : Locals}

/-! One equation per line of LEARN between the reported length and step 6. -/

/-- A length of 2 to 8 is a frame (rule R176). -/
theorem exec_learn_at_checkLen_frame (hs : s.seq = .run 0x5 .checkLen l) (h2 : 2 ≤ l.len.toNat)
    (h8 : l.len.toNat ≤ 8) : exec .learn s = .next (s.goto 0x5 (.bus .learnByte .clear) { l with j := 0 }) :=
  (atOp_run hs).trans (congrArg Host.Outcome.next (if_pos ⟨h2, h8⟩))

/-- Where the store of a frame byte leads: to the next byte while there is one, else to the parse (rule R176). -/
def nextByte (l : Locals) : Seq :=
  if l.j + 1 < l.len.toNat then .run 0x5 (.bus .learnByte .clear) { l with j := l.j + 1 } else .run 0x5 .parse l

theorem exec_learn_at_storeByte (hs : s.seq = .run 0x5 .storeByte l) :
    exec .learn s = .next { s with fb := s.fb.setIfInBounds l.j l.v, seq := nextByte l } := by
  refine (atOp_run hs).trans (congrArg Host.Outcome.next ?_)
  rw [nextByte]
  split <;> rfl

theorem exec_learn_at_parse (hs : s.seq = .run 0x5 .parse l) : exec .learn s = .next (parseStep l s) :=
  atOp_run hs

theorem exec_learn_at_setMatch (hs : s.seq = .run 0x5 .setMatch l) :
    exec .learn s = .next (s.goto 0x5 (.bus .learnIdle .clear) { l with m := true }) :=
  atOp_run hs

end

/-- `s` with what the parse of a frame with result `r` writes (rule R180). -/
def State.learned (s : State) (r : Option FixtureAddress) : State :=
  { s with
    addr := r.getD s.addr
    lstate := if r.isSome then .found else s.lstate }

/-- The parse commits a match, and step 6 follows either way (rules R178, R180); `m <- FOUND` is a line of its own. -/
theorem learn_parse_to_idle {s : State} {l : Locals} {r : Option FixtureAddress} (hs : s.seq = .run 0x5 .parse l)
    (hr : parse (s.frame l.len.toNat) = r) (hm : l.m = false) :
    runInstr .learn (if r.isSome then 2 else 1) s =
      .next ((s.learned r).goto 0x5 (.bus .learnIdle .clear) { l with m := r.isSome }) := by
  have hparse := exec_learn_at_parse hs
  rw [parseStep, hr] at hparse
  cases r with
  | none =>
    have hl : { l with m := false } = l := by rw [← hm]
    exact (runInstr_one hparse).trans (by rw [Option.isSome_none, hl]; rfl)
  | some r => exact runInstr_trans (runInstr_one hparse) (runInstr_one (exec_learn_at_setMatch rfl))

/-- A reported length of 2 to 8 goes from its record to the first FIFO read (rule R176). -/
theorem learn_recordLen_to_frame {s : State} {l : Locals} (hs : s.seq = .run 0x5 .recordLen l) (h2 : 2 ≤ l.len.toNat)
    (h8 : l.len.toNat ≤ 8) :
    runInstr .learn 3 s =
      .next ({ s with rxlen := l.len }.goto 0x5 (.bus .learnByte .clear) { l with m := false, j := 0 }) := by
  have hrecord := runInstr_one (exec_learn_at_recordLen hs)
  have hclear := runInstr_trans hrecord (runInstr_one (exec_learn_at_clearMatch rfl))
  exact runInstr_trans hclear (runInstr_one (exec_learn_at_checkLen_frame rfl h2 h8))

/-- What a read of the receive FIFO appends (rules R140, R176). -/
def fifoEvents (n : Nat) (i0 v : Byte) : List Event :=
  xferTrace sbfcParams (readXfer sbfcParams sbfcParams.fifoAddr) n i0 [v]

/-- One frame byte: the FIFO read and its store (rule R176). -/
theorem learn_readByte {s : State} {l : Locals} {m : Nat} {bs : List Level} {i0 v : Byte} {rs : List Byte}
    (hs : s.seq = .run 0x5 (.bus .learnByte .clear) l)
    (hb : s.env.brl = List.replicate m Level.asserted ++ Level.deasserted :: bs) (hr : s.env.rx = i0 :: v :: rs)
    (ht : ∀ n, sbfcParams.readyTimeout = some n → m < n) :
    runInstr .learn (m + 9) s =
      .next (State.ranTxns { s with fb := s.fb.setIfInBounds l.j v } (m + 1) (fifoEvents (m + 1) i0 v) bs rs
        (nextByte { l with v := v })) := by
  have hread : runInstr .learn (m + 8) s =
      .next (s.ranTxns (m + 1) (fifoEvents (m + 1) i0 v) bs rs (.run 0x5 .storeByte { l with v := v })) :=
    runInstr_txn (i := .learn) (x := readXfer sbfcParams sbfcParams.fifoAddr) (is := [v]) rfl hs hb hr rfl ht
  have hstore := exec_learn_at_storeByte (l := { l with v := v })
    (s := s.ranTxns (m + 1) (fifoEvents (m + 1) i0 v) bs rs (.run 0x5 .storeByte { l with v := v })) rfl
  exact runInstr_trans (m := m + 8) (n := 1) hread (runInstr_one hstore)

/-- `es` is `n` reads of the receive FIFO (rules R140, R176). -/
structure ReadsFifo (n : Nat) (es : List Event) : Prop where
  sent : sentBytes es = (List.replicate n [sbfcParams.fifoAddr.setWidth 8 ||| 0x80, 0x00]).flatten
  txns : transactions es = n

theorem readsFifo_fifoEvents (n : Nat) (i0 v : Byte) : ReadsFifo 1 (fifoEvents n i0 v) := by
  obtain ⟨hsent, htxns, -⟩ := xferTrace_measures sbfcParams (readXfer sbfcParams sbfcParams.fifoAddr) n i0
    (is := [v]) rfl
  exact ⟨hsent, htxns⟩

theorem ReadsFifo.append {m n : Nat} {es es' : List Event} (h : ReadsFifo m es) (h' : ReadsFifo n es') :
    ReadsFifo (m + n) (es ++ es') where
  sent := by rw [sentBytes_append, h.sent, h'.sent, List.replicate_add, List.flatten_append]
  txns := by rw [transactions_append, h.txns, h'.txns]

/-- Writing the first of some bytes into FB and then the others after it writes all of them. -/
theorem toList_setIfInBounds_append {j : Nat} {fb : Vector Byte 8} (v : Byte) (f : List Byte) (hj : j < 8) :
    (fb.setIfInBounds j v).toList.take (j + 1) ++ f ++ (fb.setIfInBounds j v).toList.drop (j + 1 + f.length) =
      fb.toList.take j ++ (v :: f) ++ fb.toList.drop (j + (v :: f).length) := by
  have hset : (fb.setIfInBounds j v).toList = fb.toList.set j v := by simp
  have hdrop : j < j + 1 + f.length := by omega
  rw [hset, List.take_succ_eq_append_getElem (by simpa using hj), List.getElem_set_self,
    List.take_set_of_le (Nat.le_refl j), List.drop_set_of_lt hdrop, List.length_cons, Nat.add_assoc j 1, Nat.add_comm 1]
  simp only [List.append_assoc, List.cons_append, List.nil_append]

/-- All the frame bytes that are left, `v` and then `f`, from byte `l.j` on (rule R176): LEARN comes to its parse, and of
the locals only `j` and `v` have changed. -/
theorem learn_readBytes {bs : List Level} {rs : List Byte} (f : List Byte) :
    ∀ (v : Byte) (hs : List Byte) (ws : List Nat) (s : State) (l : Locals),
      s.seq = .run 0x5 (.bus .learnByte .clear) l → l.j + (v :: f).length = l.len.toNat → l.len.toNat ≤ 8 →
      hs.length = (v :: f).length → ws.length = (v :: f).length → s.env.brl = waitDraws ws ++ bs →
      s.env.rx = (hs.zip (v :: f)).flatMap (fun x => [x.1, x.2]) ++ rs → waitsAllowed sbfcParams ws →
      ∃ fb es l', runInstr .learn (9 * (v :: f).length + ws.sum) s =
          .next (State.ranTxns { s with fb := fb } (wcntAfter ws s.wcnt) es bs rs (.run 0x5 .parse l')) ∧
        fb.toList = s.fb.toList.take l.j ++ (v :: f) ++ s.fb.toList.drop (l.j + (v :: f).length) ∧
        ReadsFifo (v :: f).length es ∧ l' = { l with j := l'.j, v := l'.v } := by
  induction f with
  | nil =>
    intro v hs ws s l hseq hj h8 hhs hws hb hr ht
    obtain ⟨h, rfl⟩ := List.length_eq_one_iff.mp hhs
    obtain ⟨w, rfl⟩ := List.length_eq_one_iff.mp hws
    rw [waitDraws_cons] at hb
    have hlast := learn_readByte hseq hb hr fun n hn => ht n hn w (by simp)
    rw [List.length_singleton] at hj
    have hj8 : l.j < 8 := by omega
    rw [nextByte, if_neg (Nat.not_lt_of_le hj.ge)] at hlast
    have hk : 9 * [v].length + [w].sum = w + 9 := by
      simp only [List.length_singleton, List.sum_singleton]
      omega
    refine ⟨_, _, _, hk ▸ hlast, ?_, readsFifo_fifoEvents (w + 1) h v, rfl⟩
    have hstored := toList_setIfInBounds_append (fb := s.fb) v [] hj8
    rwa [List.append_nil, List.length_nil, Nat.add_zero, List.take_append_drop] at hstored
  | cons v' f ih =>
    intro v hs ws s l hseq hj h8 hhs hws hb hr ht
    obtain ⟨h, hs, rfl⟩ := List.exists_cons_of_length_eq_add_one hhs
    obtain ⟨w, ws, rfl⟩ := List.exists_cons_of_length_eq_add_one hws
    rw [waitDraws_cons] at hb
    have hfirst := learn_readByte (rs := (hs.zip (v' :: f)).flatMap (fun x => [x.1, x.2]) ++ rs) hseq hb hr
      fun n hn => ht n hn w (by simp)
    have hj' : l.j + 1 + (v' :: f).length = l.len.toNat := by
      rw [← hj, List.length_cons (a := v)]
      omega
    have hj8 : l.j < 8 := by omega
    have hnext : l.j + 1 < l.len.toNat := by
      rw [← hj']
      exact Nat.lt_add_of_pos_right (Nat.succ_pos _)
    rw [nextByte, if_pos hnext] at hfirst
    generalize hu : State.ranTxns _ (w + 1) .. = u at hfirst
    obtain ⟨fb, es, l', hrest, hfb, hes, hl'⟩ := ih v' hs ws u { l with v := v, j := l.j + 1 } (by subst hu; rfl) hj' h8
      (Nat.succ.inj hhs) (Nat.succ.inj hws) (by subst hu; rfl) (by subst hu; rfl)
      fun b hbound m hm => ht b hbound m (by simp [hm])
    have hk : 9 * (v :: v' :: f).length + (w :: ws).sum = w + 9 + (9 * (v' :: f).length + ws.sum) := by
      simp only [List.length_cons, List.sum_cons]
      omega
    refine ⟨fb, fifoEvents (w + 1) h v ++ es, l', ?_, ?_, ?_, hl'⟩
    · rw [hk, runInstr_trans hfirst hrest, ← hu]
      simp only [State.ranTxns, wcntAfter_cons, List.append_assoc]
    · subst hu
      exact hfb.trans (toList_setIfInBounds_append v (v' :: f) hj8)
    · rw [List.length_cons, Nat.add_comm]
      exact (readsFifo_fifoEvents (w + 1) h v).append hes

/-- From the record of a reported length of 2 to 8 to step 6 (rules R176, R178, R180): the frame `f` is read into an
empty FB and parsed. -/
theorem learn_recordLen_to_idle {s : State} {l : Locals} {bs : List Level} {f hs rs : List Byte} {ws : List Nat}
    (hseq : s.seq = .run 0x5 .recordLen l) (hlen : l.len.toNat = f.length) (hfb : s.fb = Vector.replicate 8 0)
    (h2 : 2 ≤ f.length) (h8 : f.length ≤ 8) (hhs : hs.length = f.length) (hws : ws.length = f.length)
    (hb : s.env.brl = waitDraws ws ++ bs) (hr : s.env.rx = (hs.zip f).flatMap (fun x => [x.1, x.2]) ++ rs)
    (ht : waitsAllowed sbfcParams ws) :
    ∃ fb es l', runInstr .learn (3 + (9 * f.length + ws.sum) + if (parse f).isSome then 2 else 1) s =
        .next (State.ranTxns (State.learned { s with rxlen := l.len, fb := fb } (parse f)) (wcntAfter ws s.wcnt) es bs rs
          (.run 0x5 (.bus .learnIdle .clear) l')) ∧
      fb.toList = f ++ List.replicate (8 - f.length) 0 ∧ ReadsFifo f.length es ∧ l'.m = (parse f).isSome ∧
      l'.att = l.att := by
  have hstart := learn_recordLen_to_frame hseq (hlen ▸ h2) (hlen ▸ h8)
  obtain ⟨v, g, rfl⟩ := List.exists_cons_of_ne_nil (show f ≠ [] by rintro rfl; simp at h2)
  obtain ⟨fb, es, l', hread, hfb', hes, hl'⟩ := learn_readBytes g v hs ws
    ({ s with rxlen := l.len }.goto 0x5 (.bus .learnByte .clear) { l with m := false, j := 0 })
    { l with m := false, j := 0 } rfl ((Nat.zero_add _).trans hlen.symm) (hlen ▸ h8) hhs hws hb hr ht
  have hframe : fb.toList = v :: g ++ List.replicate (8 - (v :: g).length) 0 := by
    rw [hfb', State.goto_fb, hfb, Vector.toList_replicate, List.take_zero, List.nil_append, Nat.zero_add,
      List.drop_replicate]
  generalize hu : State.ranTxns _ (wcntAfter ..) .. = u at hread
  have hparse : parse (u.frame l'.len.toNat) = parse (v :: g) := by
    rw [hl', hlen, ← hu]
    exact congrArg parse ((congrArg (List.take _) hframe).trans List.take_left)
  have hidle := learn_parse_to_idle (by rw [← hu]; rfl) hparse (by rw [hl'])
  refine ⟨fb, es, { l' with m := (parse (v :: g)).isSome }, ?_, hframe, hes, rfl, by rw [hl']⟩
  rw [runInstr_trans (runInstr_trans hstart hread) hidle, ← hu]
  rfl

theorem waitDraws_append (ws ws' : List Nat) : waitDraws (ws ++ ws') = waitDraws ws ++ waitDraws ws' :=
  List.flatMap_append

/-- The waits of an attempt that reads `n` frame bytes: two before them, one for each, and two after them. -/
theorem exists_frame_waits {ws : List Nat} {n : Nat} (h : ws.length = 4 + n) :
    ∃ w1 w2 wb w3 w4, ws = w1 :: w2 :: (wb ++ [w3, w4]) ∧ wb.length = n := by
  match ws, h with
  | w1 :: w2 :: rest, h =>
    have hrest : rest.length = n + 2 := by
      simp only [List.length_cons] at h
      omega
    obtain ⟨w3, w4, hdrop⟩ := List.length_eq_two.mp (show (rest.drop n).length = 2 by rw [List.length_drop]; omega)
    refine ⟨w1, w2, rest.take n, w3, w4, by rw [← hdrop, List.take_append_drop], ?_⟩
    rw [List.length_take]
    omega
  | [], h | [_], h =>
    simp only [List.length_cons, List.length_nil] at h
    omega

/-- The events of an attempt that reads a frame with the FIFO events `es` (rule R184). -/
def frameEvents (w1 w2 w3 w4 : Nat) (i1 i2 len i3 i4 : Byte) (es : List Event) : List Event :=
  strobeEvents sbfcParams.stbRx sbfcParams.tRxWait (w1 + 1) i1 ++ lengthEvents (w2 + 1) i2 len ++ es ++
    (strobeEvents sbfcParams.stbIdle sbfcParams.tStrobe (w3 + 1) i3 ++
      strobeEvents sbfcParams.stbFrx sbfcParams.tStrobe (w4 + 1) i4)

/-- A whole attempt that reads the frame `f` (rules R172 to R180), with `wb` asserted samples before the FIFO reads. -/
theorem learn_attempt_with_frame {s : State} {l : Locals} {w1 w2 w3 w4 : Nat} {wb : List Nat} {bs : List Level}
    {i1 i2 i3 i4 : Byte} {f hs rs : List Byte} (hseq : s.seq = .run 0x5 .attempt l) (h2 : 2 ≤ f.length)
    (h8 : f.length ≤ 8) (hhs : hs.length = f.length) (hwb : wb.length = f.length)
    (hb : s.env.brl = waitDraws (w1 :: w2 :: (wb ++ [w3, w4])) ++ bs)
    (hr : s.env.rx = i1 :: i2 :: BitVec.ofNat 8 f.length ::
      ((hs.zip f).flatMap (fun x => [x.1, x.2]) ++ i3 :: i4 :: rs))
    (ht : waitsAllowed sbfcParams (w1 :: w2 :: (wb ++ [w3, w4]))) :
    ∃ fb es l', runInstr .learn (9 * f.length + (if (parse f).isSome then 33 else 32) +
          (w1 :: w2 :: (wb ++ [w3, w4])).sum) s =
        .next (State.ranTxns (State.learned { s with
            attempts := BitVec.ofNat 8 l.att
            rxlen := BitVec.ofNat 8 f.length
            fb := fb } (parse f))
          (w4 + 1) (frameEvents w1 w2 w3 w4 i1 i2 (BitVec.ofNat 8 f.length) i3 i4 es) bs rs (.run 0x5 .checkMatch l')) ∧
      fb.toList = f ++ List.replicate (8 - f.length) 0 ∧ ReadsFifo f.length es ∧ l'.m = (parse f).isSome ∧
      l'.att = l.att := by
  have hlen : (BitVec.ofNat 8 f.length).toNat = f.length := by
    rw [BitVec.toNat_ofNat]
    omega
  simp only [waitDraws_cons, waitDraws_append, List.append_assoc] at hb
  have hattempt := runInstr_one (exec_learn_at_attempt hseq)
  have hhead := runInstr_trans hattempt (learn_rx_to_recordLen (State.goto_seq ..) hb hr
    (fun n hn => ht n hn w1 (by simp)) fun n hn => ht n hn w2 (by simp))
  generalize hu : State.ranTxns _ (w2 + 1) .. = u at hhead
  obtain ⟨fb, es, l', hread, hfb, hes, hm, hatt⟩ := learn_recordLen_to_idle (s := u) (by rw [← hu]; rfl) hlen
    (by rw [← hu]; rfl) h2 h8 hhs hwb (by rw [← hu]; rfl) (by rw [← hu]; rfl)
    fun n hn m hmem => ht n hn m (by simp [hmem])
  have htail := runInstr_trans hread (learn_idle_to_checkMatch (m3 := w3) (m4 := w4) (i3 := i3) (i4 := i4) (bs := bs)
    (rs := rs) rfl rfl rfl (fun n hn => ht n hn w3 (by simp)) fun n hn => ht n hn w4 (by simp))
  rw [State.ranTxns_ranTxns] at htail
  refine ⟨fb, es, l', ?_, hfb, hes, hm, hatt⟩
  have hk : 9 * f.length + (if (parse f).isSome then 33 else 32) + (w1 :: w2 :: (wb ++ [w3, w4])).sum =
      1 + (w1 + 6 + (w2 + 8)) + (3 + (9 * f.length + wb.sum) + (if (parse f).isSome then 2 else 1) +
        (w3 + 6 + (w4 + 6) + 1)) := by
    simp only [List.sum_cons, List.sum_append, List.sum_nil]
    split <;> omega
  rw [hk, runInstr_trans hhead htail, ← hu]
  simp only [State.ranTxns, State.learned, State.goto, frameEvents, List.append_assoc]

/-- What such an attempt sends, and its transactions (rules R178, R184). -/
theorem frameEvents_measures (w1 w2 w3 w4 : Nat) (i1 i2 len i3 i4 : Byte) {n : Nat} {es : List Event}
    (h : ReadsFifo n es) :
    sentBytes (frameEvents w1 w2 w3 w4 i1 i2 len i3 i4 es) =
      sbfcParams.stbRx :: (sbfcParams.rxlenAddr.setWidth 8 ||| 0x80) :: 0x00 ::
        ((List.replicate n [sbfcParams.fifoAddr.setWidth 8 ||| 0x80, 0x00]).flatten ++
          [sbfcParams.stbIdle, sbfcParams.stbFrx]) ∧
    transactions (frameEvents w1 w2 w3 w4 i1 i2 len i3 i4 es) = 4 + n := by
  simp only [frameEvents, sentBytes_append, transactions_append, h.sent, h.txns]
  refine ⟨rfl, ?_⟩
  change 1 + 1 + n + (1 + 1) = 4 + n
  omega

end Sys2Proof.Machine

open Sys2Proof Sys2Proof.Machine

/-- Settles O32: `learn_attempt_with_frame`, with the waits listed in order and the events measured. -/
theorem attemptReadsAndParsesFrame : Obligations.AttemptReadsAndParsesFrame := by
  intro s l ws bs i1 i2 i3 i4 f hs rs hseq h2 h8 hhs hws hb hr ht
  obtain ⟨w1, w2, wb, w3, w4, rfl, hwb⟩ := exists_frame_waits hws
  obtain ⟨fb, es, l', hrun, hfb, hes, hm, hatt⟩ := learn_attempt_with_frame hseq h2 h8 hhs hwb hb hr ht
  obtain ⟨hsent, htxns⟩ := frameEvents_measures w1 w2 w3 w4 i1 i2 (BitVec.ofNat 8 f.length) i3 i4 hes
  have hwcnt : wcntAfter (w1 :: w2 :: (wb ++ [w3, w4])) s.wcnt = w4 + 1 := by
    rw [wcntAfter_cons, wcntAfter_cons]
    simp [wcntAfter]
  refine ⟨⟨_, exec_learn_at_attempt hseq⟩, _, l', _, hrun, ?_, hfb, hm, hatt, hsent, htxns⟩
  rw [hwcnt]
  rfl

end

section
/-! TX with a count of 0 (rule R213): the lines before the first repetition, then the last line. -/

namespace Sys2Proof.Machine

/-- With a count of 0, TX's setup leads straight to its last line. -/
theorem firstRep_zero (l : Locals) : firstRep 0 l = .run 0x4 .finish l :=
  if_pos rfl

/-- The four steps of TX with a count of 0 and a known address: of the registers, only REPS_DONE and those of `finish`
are written, and no transaction is made. -/
theorem tx_zero_repetitions (k : CommandCode) {s : State} {l : Locals} (hs : s.seq = .run 0x4 .start l)
    (ha : s.addrValid = true) : runInstr (.tx k 0) 4 s = .next ({ s with repsDone := 0 }.finish .ok) := by
  have hsetup := tx_start_to_first (k := k) (n := 0) hs ha
  rw [firstRep_zero] at hsetup
  exact runInstr_trans hsetup (runInstr_one (exec_tx_at_finish k 0 rfl))

end Sys2Proof.Machine

open Sys2Proof Sys2Proof.Machine

/-- Settles O23: a count of 0 is a legal operand, and `tx_zero_repetitions` is the whole run. -/
theorem txZeroRepetitions : Obligations.TxZeroRepetitions := fun k _ _ hs ha =>
  ⟨decode_encode (.tx k 0), 4, tx_zero_repetitions k hs ha⟩

end

section
/-! INIT (rules R244 to R246): the reset strobe, one entry of the table, and the whole table by induction on the entries
that are left. -/

namespace Sys2Proof.Machine

theorem exec_init_at_start {s : State} {l : Locals} (hs : s.seq = .run 0x7 .start l) :
    exec .init s = .next (s.goto 0x7 (.bus .initReset .clear) l) :=
  atOp_run hs

theorem exec_init_at_tableEntry {s : State} {l : Locals} (hs : s.seq = .run 0x7 .tableEntry l) :
    exec .init s = .next (s.goto 0x7 (.bus .initWrite .clear) l) :=
  atOp_run hs

/-- Where the loop over the table stands with `ci` entries done: at entry `ci` while there is one, else at the last line
(rule R244). -/
def tableLine (ci : Nat) (l : Locals) : Seq :=
  if ci < sbfcParams.configTable.length then .run 0x7 .tableEntry { l with ci := ci } else .run 0x7 .finish l

/-- After the reset strobe no entry is done yet; an empty table leads straight to the last line. -/
theorem afterTxn_initReset (l : Locals) : afterTxn sbfcParams .init l .initReset = tableLine 0 l := by
  by_cases h : sbfcParams.configTable = []
  · exact (if_pos h).trans (if_neg (by rw [h]; exact Nat.lt_irrefl 0)).symm
  · exact (if_neg h).trans (if_pos (List.length_pos_iff.mpr h)).symm

/-- INIT's first line and its reset strobe (rule R245). -/
theorem init_reset {s : State} {l : Locals} {m : Nat} {bs : List Level} {i0 : Byte} {rs : List Byte}
    (hs : s.seq = .run 0x7 .start l) (hb : s.env.brl = List.replicate m Level.asserted ++ Level.deasserted :: bs)
    (hr : s.env.rx = i0 :: rs) (ht : ∀ n, sbfcParams.readyTimeout = some n → m < n) :
    runInstr .init (1 + (m + 6)) s =
      .next (s.ranTxns (m + 1) (strobeEvents sbfcParams.stbReset sbfcParams.tReset (m + 1) i0) bs rs
        (tableLine 0 l)) := by
  have hstrobe := runInstr_txn (i := .init) (t := .initReset) (x := strobeXfer sbfcParams.stbReset sbfcParams.tReset)
    (s := s.goto 0x7 (.bus .initReset .clear) l) (is := []) rfl rfl hb hr rfl ht
  rw [← afterTxn_initReset]
  exact runInstr_trans (runInstr_one (exec_init_at_start hs)) hstrobe

/-- What the write of one table entry appends, given with its asserted samples and its two received bytes (rules R145,
R246). -/
def entryEvents (e : (RegAddr × Byte) × Nat × Byte × Byte) : List Event :=
  [.wait (e.2.1 + 1), .sel, .x (e.1.1.setWidth 8) e.2.2.1, .gap sbfcParams.tByte, .x e.1.2 e.2.2.2, .desel,
    .dly sbfcParams.tPost]

/-- One entry of the table (rules R244, R246): its line and its register write. -/
theorem init_write {s : State} {l : Locals} {e : RegAddr × Byte} {m : Nat} {bs : List Level} {i : Byte × Byte}
    {rs : List Byte} (hs : s.seq = .run 0x7 .tableEntry l) (he : sbfcParams.configTable[l.ci]? = some e)
    (hb : s.env.brl = List.replicate m Level.asserted ++ Level.deasserted :: bs) (hr : s.env.rx = i.1 :: i.2 :: rs)
    (ht : ∀ n, sbfcParams.readyTimeout = some n → m < n) :
    runInstr .init (1 + (m + 8)) s =
      .next (s.ranTxns (m + 1) (entryEvents (e, m, i)) bs rs (tableLine (l.ci + 1) l)) := by
  have hx : xferOf sbfcParams s.addr l .init .initWrite = some (writeXfer sbfcParams e.1 e.2) :=
    Option.map_eq_some_iff.mpr ⟨e, he, rfl⟩
  have hwrite := runInstr_txn (s := s.goto 0x7 (.bus .initWrite .clear) l) (is := [i.2]) hx rfl hb hr rfl ht
  exact runInstr_trans (runInstr_one (exec_init_at_tableEntry hs)) hwrite

/-- All the entries `es` that are left after the first `ci` (rule R244): INIT comes to its last line. `es0` are the
events before them. -/
theorem init_writes {s : State} {bs : List Level} {rs : List Byte} (es : List (RegAddr × Byte)) :
    ∀ (ci : Nat) (ws : List Nat) (is : List (Byte × Byte)) (n : Nat) (es0 : List Event) (l : Locals),
      sbfcParams.configTable.drop ci = es → ws.length = es.length → is.length = es.length →
      waitsAllowed sbfcParams ws →
      ∃ l', runInstr .init (9 * es.length + ws.sum)
          (s.ranTxns n es0 (waitDraws ws ++ bs) (is.flatMap (fun i => [i.1, i.2]) ++ rs) (tableLine ci l)) =
        .next (s.ranTxns (wcntAfter ws n) (es0 ++ (es.zip (ws.zip is)).flatMap entryEvents) bs rs
          (.run 0x7 .finish l')) := by
  induction es with
  | nil =>
    intro ci ws is n es0 l hdrop hw hi _
    obtain rfl : ws = [] := List.length_eq_zero_iff.mp hw
    obtain rfl : is = [] := List.length_eq_zero_iff.mp hi
    have hend : tableLine ci l = .run 0x7 .finish l := if_neg (Nat.not_lt.mpr (List.drop_eq_nil_iff.mp hdrop))
    refine ⟨l, ?_⟩
    simp only [hend, List.zip_nil_left, List.flatMap_nil, List.append_nil]
    rfl
  | cons e es ih =>
    intro ci ws is n es0 l hdrop hw hi ht
    obtain ⟨w, ws, rfl⟩ := List.exists_cons_of_length_eq_add_one hw
    obtain ⟨i, is, rfl⟩ := List.exists_cons_of_length_eq_add_one hi
    have he : sbfcParams.configTable[ci]? = some e := by rw [← List.head?_drop, hdrop, List.head?_cons]
    have hrest : sbfcParams.configTable.drop (ci + 1) = es := by rw [← List.tail_drop, hdrop, List.tail_cons]
    have hline : tableLine ci l = .run 0x7 .tableEntry { l with ci := ci } :=
      if_pos (List.getElem?_eq_some_iff.mp he).1
    have hentry := init_write (s := s.ranTxns n es0 (waitDraws (w :: ws) ++ bs)
      ((i :: is).flatMap (fun i => [i.1, i.2]) ++ rs) (tableLine ci l)) hline he (waitDraws_cons w ws bs) rfl
      fun b hb => ht b hb w List.mem_cons_self
    rw [State.ranTxns_ranTxns] at hentry
    obtain ⟨l', hwrites⟩ := ih (ci + 1) ws is (w + 1) (es0 ++ entryEvents (e, w, i)) { l with ci := ci } hrest
      (Nat.succ.inj hw) (Nat.succ.inj hi) fun b hb m hm => ht b hb m (List.mem_cons_of_mem w hm)
    have hk : 9 * (e :: es).length + (w :: ws).sum = 1 + (w + 8) + (9 * es.length + ws.sum) := by
      rw [List.length_cons, List.sum_cons]
      omega
    refine ⟨l', ?_⟩
    rw [hk, runInstr_trans hentry hwrites, wcntAfter_cons, List.zip_cons_cons, List.zip_cons_cons, List.flatMap_cons,
      List.append_assoc]

end Sys2Proof.Machine

open Sys2Proof Sys2Proof.Machine

/-- Settles O28: the reset strobe, then `init_writes` from the first entry of the table, then the last line. -/
theorem initWritesTheTable : Obligations.InitWritesTheTable := by
  intro s l m0 ws bs i0 is rs hs hw hi hb hr ht
  have hreset := init_reset hs (hb.trans (waitDraws_cons m0 ws bs)) hr fun b h => ht b h m0 List.mem_cons_self
  obtain ⟨l', hwrites⟩ := init_writes (s := s) (bs := bs) (rs := rs) sbfcParams.configTable 0 ws is (m0 + 1)
    (strobeEvents sbfcParams.stbReset sbfcParams.tReset (m0 + 1) i0) l rfl hw hi
    fun b h m hm => ht b h m (List.mem_cons_of_mem m0 hm)
  have hrun := runInstr_trans hreset (runInstr_trans hwrites (runInstr_one (exec_init_at_finish rfl)))
  have hk : 9 * sbfcParams.configTable.length + 8 + (m0 :: ws).sum =
      1 + (m0 + 6) + (9 * sbfcParams.configTable.length + ws.sum + 1) := by
    rw [List.sum_cons]
    omega
  refine ⟨⟨_, exec_init_at_start hs⟩, ?_⟩
  rw [hk, hrun, wcntAfter_cons, List.append_assoc]
  rfl

end

section
/-! The pseudo-instructions (rule R250): a line in range is its expansion. -/

namespace Sys2Proof.Machine

theorem asmCommand_of_inRange {p : Params} {l : AsmLine} (h : l.inRange = true) : asmCommand p l = asmExpand p l :=
  if_pos h

end Sys2Proof.Machine

open Sys2Proof Sys2Proof.Machine

/-- Settles O6: a line without a number is in range as it stands, a repetition count or a value where it is at most
255. -/
theorem pseudoInstructionsExpand : Obligations.PseudoInstructionsExpand := by
  intro p
  refine ⟨rfl, rfl, rfl, fun _ => ⟨rfl, rfl⟩, fun n hn => ?_, rfl, rfl, rfl, rfl, rfl, rfl, rfl⟩
  have hrange : decide (n ≤ 255) = true := decide_eq_true hn
  exact ⟨asmCommand_of_inRange hrange, asmCommand_of_inRange hrange, asmCommand_of_inRange hrange,
    fun _ => asmCommand_of_inRange hrange, asmCommand_of_inRange hrange⟩

end

section
/-! SETADDR and NOP (rules R240 to R242, R248): the lines of SETADDR, its two ends, and NOP's only line from the section
on last lines. -/

namespace Sys2Proof.Machine

section
variable {a b : Byte} {s : State} {l : Locals}

theorem exec_setaddr_at_start (hs : s.seq = .run 0x6 .start l) :
    exec (.setaddr a b) s = .next (s.goto 0x6 .operands l) :=
  atOp_run hs

theorem exec_setaddr_at_operands (hs : s.seq = .run 0x6 .operands l) :
    exec (.setaddr a b) s = .next (s.goto 0x6 .precondition l) :=
  atOp_run hs

/-- Only the sentinel is rejected (rules R241, R242). -/
theorem exec_setaddr_at_precondition (hs : s.seq = .run 0x6 .precondition l) :
    exec (.setaddr a b) s =
      .next (if isAddress { a := a, b := b } then s.goto 0x6 .setup l else s.finish .rejected) :=
  atOp_run hs

theorem exec_setaddr_at_setup (hs : s.seq = .run 0x6 .setup l) :
    exec (.setaddr a b) s = .next ({ s with addr := { a := a, b := b } }.goto 0x6 .finish l) :=
  atOp_run hs

/-- SETADDR up to and with its precondition line (rules R240, R270). -/
theorem setaddr_start_to_precondition (hs : s.seq = .run 0x6 .start l) :
    runInstr (.setaddr a b) 3 s = .next (if isAddress { a := a, b := b }
      then (s.goto 0x6 .precondition l).goto 0x6 .setup l else (s.goto 0x6 .precondition l).finish .rejected) :=
  runInstr_trans (runInstr_one (exec_setaddr_at_start hs))
    (runInstr_trans (runInstr_one (exec_setaddr_at_operands (State.goto_seq ..)))
      (runInstr_one (exec_setaddr_at_precondition (State.goto_seq ..))))

/-- The whole SETADDR of a pair that is an address (rule R241). -/
theorem setaddr_stores (hs : s.seq = .run 0x6 .start l) (hab : isAddress { a := a, b := b } = true) :
    runInstr (.setaddr a b) 5 s = .next ({ s with addr := { a := a, b := b } }.finish .ok) := by
  have hpre := setaddr_start_to_precondition (a := a) (b := b) hs
  rw [if_pos hab] at hpre
  have hstore := runInstr_trans hpre (runInstr_one (exec_setaddr_at_setup (State.goto_seq ..)))
  exact runInstr_trans hstore (runInstr_one (exec_setaddr_at_finish a b (State.goto_seq ..)))

/-- The whole SETADDR of the sentinel (rule R242). -/
theorem setaddr_rejects_sentinel (hs : s.seq = .run 0x6 .start l) :
    runInstr (.setaddr 0 0) 3 s = .next (s.finish .rejected) :=
  (setaddr_start_to_precondition hs).trans (congrArg Host.Outcome.next (if_neg (by decide)))

end

end Sys2Proof.Machine

open Sys2Proof Sys2Proof.Machine

/-- Settles O17: NOP's equation at its only line. -/
theorem nopCompletes : Obligations.NopCompletes := fun _ _ => exec_nop_at_start

/-- Settles O26: the setup line's equation, and `setaddr_stores` with the words of ADDR and STATUS read off its state. -/
theorem setaddrStoresPair : Obligations.SetaddrStoresPair := by
  intro a b s l hne
  have hab : isAddress { a := a, b := b } = true := isAddress_iff.mpr hne
  refine ⟨exec_setaddr_at_setup, fun hs => ⟨5, _, setaddr_stores hs hab, rfl, rfl, ?_⟩⟩
  obtain ⟨-, -, -, hvalid, -⟩ := ({ s with addr := { a := a, b := b } }.finish .ok).statusWord_fields
  exact hvalid.trans (congrArg BitVec.ofBool hab)

/-- Settles O27: `setaddr_rejects_sentinel`, whose end state has every register but DONE, BUSY and SEQ as before. -/
theorem setaddrSentinelLeavesAddr : Obligations.SetaddrSentinelLeavesAddr := fun _ _ hs =>
  ⟨⟨_, exec_setaddr_at_start hs⟩, 3, _, setaddr_rejects_sentinel hs, rfl, rfl, rfl, rfl⟩

end

section
/-! The two codes of a command that does nothing (rules R262, R263, R270): ILLEGAL, where the word has no command, and
REJECTED, where TX has no address; the rejected SETADDR stands in the section on SETADDR. -/

namespace Sys2Proof.Machine

/-- Where the SEQ has the first listed turn it makes the step, and the turn is used up (rule R85). -/
theorem step_of_seq_turn {s : State} {ts : List Turn} (hts : s.env.turns = .seq :: ts) :
    step s = seqTurn exec (s.withTurns ts) := by
  simp only [step, turnStep, hts]

/-- The only SEQ turn of an accepted illegal word (rules R104, R262). -/
theorem seqTurn_illegal {s : State} {op : BitVec 4} {l : Locals} {e : IllegalWord} (hr : s.env.rst = false)
    (hs : s.seq = .run op .start l) (hd : decode s.opl = .error e) :
    seqTurn exec s = .next (s.finish .illegal) := by
  simp only [seqTurn, illegalStep, hr, hs, hd, Bool.false_eq_true, if_false]

section
variable {k : CommandCode} {n : Byte} {s : State} {l : Locals}

/-- TX's precondition line where it fails (rule R212). -/
theorem exec_tx_at_precondition_rejects (hs : s.seq = .run 0x4 .precondition l) (ha : s.addrValid = false) :
    exec (.tx k n) s = .next (s.finish .rejected) :=
  (atOp_run hs).trans (by rw [ha]; rfl)

/-- The whole TX without an address (rules R212, R263): it ends at the precondition, before any write or transaction. -/
theorem tx_rejects_without_address (hs : s.seq = .run 0x4 .start l) (ha : s.addrValid = false) :
    runInstr (.tx k n) 2 s = .next (s.finish .rejected) :=
  runInstr_trans (runInstr_one (exec_tx_at_start hs))
    (runInstr_one (exec_tx_at_precondition_rejects (State.goto_seq ..) ha))

end

end Sys2Proof.Machine

open Sys2Proof Sys2Proof.Machine

/-- Settles O9: with no turn listed or the SEQ's first, the step is the word's only SEQ turn, which is `finish`. -/
theorem illegalWordFinishesIllegal : Obligations.IllegalWordFinishesIllegal := by
  intro s op l e hr hs hd
  refine ⟨fun hts => ?_, fun ts hts => ?_⟩
  · exact (step_of_no_turns hts).trans (seqTurn_illegal hr hs hd)
  · have hturn : seqTurn exec (s.withTurns ts) = .next ((s.withTurns ts).finish .illegal) := seqTurn_illegal hr hs hd
    exact (step_of_seq_turn hts).trans hturn

/-- Settles O22: TX ends at its precondition line, SETADDR of the sentinel by `setaddr_rejects_sentinel`. -/
theorem rejectedWritesNothingElse : Obligations.RejectedWritesNothingElse := fun _ _ =>
  ⟨fun _ _ hs ha => ⟨2, tx_rejects_without_address hs ha⟩, fun hs => ⟨3, setaddr_rejects_sentinel hs⟩⟩

end

section
/-! The reset input (rules R60, R290, R292): while RST is asserted no turn but its own writes anything. -/

namespace Sys2Proof.Machine

/-- Where RST is asserted an access at most returns a word to the host (rules R73, R290). -/
theorem State.access_of_rst {s : State} (hr : s.env.rst = true) (a : HostAccess) :
    s.access a = { s with env := (s.access a).env } := by
  rcases State.access_cases a s with ⟨off, n, -, he⟩ | he | ⟨n, w, -, hr', -⟩ | ⟨n, w, -, hr', -⟩
  · rw [he]
    rfl
  · rw [he]
  all_goals exact absurd (hr.symm.trans hr') nofun

/-- Where RST is asserted a SEQ turn is none (rule R290). -/
theorem seqTurn_of_rst {run : Instr → State → Out} {s : State} (hr : s.env.rst = true) :
    seqTurn run s = .next s := by
  rw [seqTurn, if_pos hr]

end Sys2Proof.Machine

open Sys2Proof.Machine

/-- Settles O15: a change of RST is `State.setRst`; under asserted RST the other turns write the environment alone. -/
theorem rstResetsEverything : Obligations.RstResetsEverything := by
  refine ⟨fun s on ts hts => by simp only [step, turnStep, hts]; rfl, fun s t hr hs hstep => ?_⟩
  generalize htr : s.trace = tr at hs ⊢
  generalize s.env = e at hs hr
  subst hs
  rcases step_cases hstep with ⟨on, ts, -, rfl⟩ | ⟨a, ts, -, -, rfl⟩ | ⟨ts, -, hseq⟩
  · rfl
  · rw [State.access_of_rst (s := (State.resetWith tr e).withTurns ts) hr a]
    rfl
  · rw [seqTurn_of_rst (s := (State.resetWith tr e).withTurns ts) hr] at hseq
    cases hseq
    rfl

end

section
/-! The least time of a run under any legal configuration (rules R298, R304, R305): lines take none, a transaction its
gaps and its final delay, and the runs of a command add up. -/

namespace Sys2Proof.Machine

/-- Under the parameters `p` command `i` runs from `s` to `t`, and the least time of the events it appends is `n`
microseconds. -/
def Takes (p : Params) (i : Instr) (n : Nat) (s t : State) : Prop :=
  ∃ k es, runFn (commandStep p i) k s = .next t ∧ t.trace = s.trace ++ es ∧ minTime es = n

section
variable {p : Params} {i : Instr} {s t u : State} {l : Locals} {m n : Nat}

theorem Takes.trans (h : Takes p i m s t) (h' : Takes p i n t u) : Takes p i (m + n) s u := by
  obtain ⟨k, es, hrun, htrace, htime⟩ := h
  obtain ⟨k', es', hrun', htrace', htime'⟩ := h'
  refine ⟨k + k', es ++ es', (runFn_add _ _ _ _ _ hrun).trans hrun', ?_, ?_⟩
  · rw [htrace', htrace, List.append_assoc]
  · rw [minTime_append, htime, htime']

/-- A line that is no transaction takes no time (rule R305). -/
theorem Takes.line (h : commandStep p i s = .next t) (ht : t.trace = s.trace) : Takes p i 0 s t :=
  ⟨1, [], runFn_succ _ 0 h, by rw [ht, List.append_nil], rfl⟩

/-! Lines that follow another line. -/

theorem takes_rdreg_operands {a : RegAddr} (hs : s.seq = .run 0x1 .operands l) :
    Takes p (.rdreg a) 0 s (s.goto 0x1 (.bus .cmd .clear) l) :=
  .line (atOp_run hs) rfl

theorem takes_clearMatch (hs : s.seq = .run 0x5 .clearMatch l) :
    Takes p .learn 0 s (s.goto 0x5 .checkLen { l with m := false }) :=
  .line (atOp_run hs) rfl

theorem takes_setMatch (hs : s.seq = .run 0x5 .setMatch l) :
    Takes p .learn 0 s (s.goto 0x5 (.bus .learnIdle .clear) { l with m := true }) :=
  .line (atOp_run hs) rfl

theorem waitsAllowed_cons {w : Nat} {ws : List Nat} :
    waitsAllowed p (w :: ws) ↔ (∀ b, p.readyTimeout = some b → w < b) ∧ waitsAllowed p ws := by
  simp only [waitsAllowed, List.forall_mem_cons, forall_and]

/-- A transaction line takes its gaps and its final delay (rules R136, R305). -/
theorem Takes.txn {x : Xfer} {q : Txn} {w : Nat} {ws : List Nat} {bs : List Level} {i0 : Byte} {is rs : List Byte}
    (hx : xferOf p s.addr l i q = some x) (hs : s.seq = .run (opcode i) (.bus q .clear) l)
    (hb : s.env.brl = waitDraws (w :: ws) ++ bs) (hr : s.env.rx = i0 :: (is ++ rs))
    (hl : is.length = x.payload.length) (ht : waitsAllowed p (w :: ws)) :
    Takes p i (x.payload.length * p.tByte + x.settle) s
      (s.ranTxns (w + 1) (xferTrace p x (w + 1) i0 is) (waitDraws ws ++ bs) rs
        (afterTxn p i (recvLocals x l is) q)) := by
  obtain ⟨-, -, htime⟩ := xferTrace_measures p x (w + 1) i0 hl
  rw [waitDraws_cons] at hb
  exact ⟨_, _, commandStep_txn hx hs hb hr hl (waitsAllowed_cons.mp ht).1, rfl, htime⟩

/-- A strobe takes its settle time (rule R150). -/
theorem Takes.strobe {c : Byte} {d : Nat} {q : Txn} {w : Nat} {ws : List Nat} {bs : List Level} {i0 : Byte}
    {rs : List Byte} (hx : xferOf p s.addr l i q = some (strobeXfer c d))
    (hs : s.seq = .run (opcode i) (.bus q .clear) l) (hb : s.env.brl = waitDraws (w :: ws) ++ bs)
    (hr : s.env.rx = i0 :: rs) (ht : waitsAllowed p (w :: ws)) :
    Takes p i d s (s.ranTxns (w + 1) (strobeEvents c d (w + 1) i0) (waitDraws ws ++ bs) rs (afterTxn p i l q)) := by
  have h := Takes.txn (is := []) hx hs hb hr rfl ht
  rwa [show (strobeXfer c d).payload.length * p.tByte + (strobeXfer c d).settle = d by simp [strobeXfer]] at h

/-- A transaction with one payload byte, a register read or write, takes a gap and the post delay (rules R140, R145). -/
theorem Takes.register {x : Xfer} {q : Txn} {w : Nat} {ws : List Nat} {bs : List Level} {i0 i1 : Byte}
    {rs : List Byte} (hx : xferOf p s.addr l i q = some x) (hs : s.seq = .run (opcode i) (.bus q .clear) l)
    (hb : s.env.brl = waitDraws (w :: ws) ++ bs) (hr : s.env.rx = i0 :: i1 :: rs) (ht : waitsAllowed p (w :: ws))
    (hlen : x.payload.length = 1) (hsettle : x.settle = p.tPost) :
    Takes p i (p.tByte + p.tPost) s
      (s.ranTxns (w + 1) (xferTrace p x (w + 1) i0 [i1]) (waitDraws ws ++ bs) rs
        (afterTxn p i (recvLocals x l [i1]) q)) := by
  have h := Takes.txn (is := [i1]) hx hs hb hr hlen.symm ht
  rwa [hlen, hsettle, Nat.one_mul] at h

end

/-! The commands of one transaction (rules R141, R146, R151). -/

section
variable {p : Params} {s : State} {l : Locals} {ws : List Nat} {bs : List Level} {is rs : List Byte}
  (ht : waitsAllowed p ws) (hb : s.env.brl = waitDraws ws ++ bs) (hr : s.env.rx = is ++ rs)
include ht hb hr

theorem takes_rdreg {a : RegAddr} (hs : s.seq = .run 0x1 .start l) (hws : ws.length = 1) (his : is.length = 2) :
    ∃ t, Takes p (.rdreg a) (p.tByte + p.tPost) s t ∧ t.done = .ok ∧ t.seq = .idle := by
  obtain ⟨w, rfl⟩ := List.length_eq_one_iff.mp hws
  obtain ⟨i0, i1, rfl⟩ := List.length_eq_two.mp his
  have hstart : Takes p (.rdreg a) 0 s (s.goto 0x1 .operands l) := .line (atOp_run hs) rfl
  have hlines := hstart.trans (takes_rdreg_operands (State.goto_seq ..))
  have hread := Takes.register (i := .rdreg a) (s := s.goto 0x1 (.bus .cmd .clear) l) (x := readXfer p a) rfl rfl hb hr
    ht rfl rfl
  generalize hu : State.ranTxns (s.goto ..) .. = u at hread
  have hq : u.seq = .run 0x1 .finish { l with v := i1 } := by rw [← hu]; rfl
  have hfinish : Takes p (.rdreg a) 0 u ({ u with rdata := i1 }.finish .ok) := .line (atOp_run hq) rfl
  have hall := (hlines.trans hread).trans hfinish
  exact ⟨_, by simpa only [Nat.zero_add, Nat.add_zero] using hall, rfl, rfl⟩

theorem takes_wrreg {a : RegAddr} {v : Byte} (hs : s.seq = .run 0x2 .start l) (hws : ws.length = 1)
    (his : is.length = 2) : ∃ t, Takes p (.wrreg a v) (p.tByte + p.tPost) s t ∧ t.done = .ok ∧ t.seq = .idle := by
  obtain ⟨w, rfl⟩ := List.length_eq_one_iff.mp hws
  obtain ⟨i0, i1, rfl⟩ := List.length_eq_two.mp his
  have hstart : Takes p (.wrreg a v) 0 s (s.goto 0x2 (.bus .cmd .clear) l) := .line (atOp_run hs) rfl
  have hwrite := Takes.register (i := .wrreg a v) (s := s.goto 0x2 (.bus .cmd .clear) l) (x := writeXfer p a v) rfl rfl
    hb hr ht rfl rfl
  generalize hu : State.ranTxns (s.goto ..) .. = u at hwrite
  have hq : u.seq = .run 0x2 .finish l := by rw [← hu]; rfl
  have hfinish : Takes p (.wrreg a v) 0 u (u.finish .ok) := .line (atOp_run hq) rfl
  have hall := (hstart.trans hwrite).trans hfinish
  exact ⟨_, by simpa only [Nat.zero_add, Nat.add_zero] using hall, rfl, rfl⟩

theorem takes_strobe {c : Byte} {d : BitVec 16} (hs : s.seq = .run 0x3 .start l) (hws : ws.length = 1)
    (his : is.length = 1) : ∃ t, Takes p (.strobe c d) d.toNat s t ∧ t.done = .ok ∧ t.seq = .idle := by
  obtain ⟨w, rfl⟩ := List.length_eq_one_iff.mp hws
  obtain ⟨i0, rfl⟩ := List.length_eq_one_iff.mp his
  have hstart : Takes p (.strobe c d) 0 s (s.goto 0x3 (.bus .cmd .clear) l) := .line (atOp_run hs) rfl
  have hstrobe := Takes.strobe (i := .strobe c d) (s := s.goto 0x3 (.bus .cmd .clear) l) rfl rfl hb hr ht
  generalize hu : State.ranTxns (s.goto ..) .. = u at hstrobe
  have hq : u.seq = .run 0x3 .finish l := by rw [← hu]; rfl
  have hfinish : Takes p (.strobe c d) 0 u (u.finish .ok) := .line (atOp_run hq) rfl
  have hall := (hstart.trans hstrobe).trans hfinish
  exact ⟨_, by simpa only [Nat.zero_add, Nat.add_zero] using hall, rfl, rfl⟩

end

/-- One repetition of TX: two strobes, the burst write with its eight gaps, the transmit strobe with its long delay
(rules R210, R219, R305). -/
theorem takes_repetition {p : Params} {c : CommandCode} {n : Byte} {s : State} {l : Locals} {ws : List Nat}
    {bs : List Level} {is rs : List Byte} (hs : s.seq = .run 0x4 (.bus .txIdle .clear) l) (hws : ws.length = 4)
    (his : is.length = 12) (hb : s.env.brl = waitDraws ws ++ bs) (hr : s.env.rx = is ++ rs) (ht : waitsAllowed p ws) :
    ∃ t, Takes p (.tx c n) (2 * p.tStrobe + 8 * p.tByte + p.tPost + p.tTx) s t ∧
      t.repsDone = BitVec.ofNat 8 l.rep ∧ t.seq = nextRep n l := by
  obtain ⟨w1, w2, w3, w4, ws', rfl, hws'⟩ := exists_four_waits (n := 0) hws
  obtain ⟨x, is', rfl, his'⟩ := exists_repReceived (j := 0) his
  have hr' : s.env.rx = x.idle :: x.flush :: x.header :: (x.payload ++ x.fire :: (is' ++ rs)) := by
    rw [hr, RepReceived.bytes]
    simp
  have ht2 := (waitsAllowed_cons.mp ht).2
  have ht3 := (waitsAllowed_cons.mp ht2).2
  have hidle := Takes.strobe (i := .tx c n) (q := .txIdle) rfl hs hb hr' ht
  have hflush := hidle.trans (Takes.strobe (q := .txFlush) rfl rfl rfl rfl ht2)
  have hburst := hflush.trans (Takes.txn (q := .txBurst) rfl rfl rfl rfl x.payload_length ht3)
  have hfire := hburst.trans (Takes.strobe (q := .txFire) rfl rfl rfl rfl (waitsAllowed_cons.mp ht3).2)
  generalize hu : State.ranTxns _ (w4 + 1) .. = u at hfire
  have hq : u.seq = .run 0x4 .countRep l := by rw [← hu]; rfl
  have hcount : Takes p (.tx c n) 0 u { u with repsDone := BitVec.ofNat 8 l.rep, seq := nextRep n l } := by
    refine .line ((atOp_run hq).trans (congrArg Host.Outcome.next ?_)) rfl
    rw [nextRep]
    split <;> rfl
  have hall := hfire.trans hcount
  refine ⟨{ u with repsDone := BitVec.ofNat 8 l.rep, seq := nextRep n l }, ?_, rfl, rfl⟩
  convert hall using 1
  simp only [burstXfer, txPayload, List.length_cons, List.length_nil]
  omega

/-! The parts of a learning attempt (rules R172 to R179). -/

section
variable {p : Params} {s : State} {l : Locals} {bs : List Level} {rs : List Byte}

/-- The first half of an attempt, up to the check of the reported length: a strobe and a register read. -/
theorem takes_attempt_to_checkLen {w1 w2 : Nat} {ws : List Nat} {i1 i2 len : Byte} (hs : s.seq = .run 0x5 .attempt l)
    (hb : s.env.brl = waitDraws (w1 :: w2 :: ws) ++ bs) (hr : s.env.rx = i1 :: i2 :: len :: rs)
    (ht : waitsAllowed p (w1 :: w2 :: ws)) :
    ∃ t l', Takes p .learn (p.tRxWait + (p.tByte + p.tPost)) s t ∧ t.seq = .run 0x5 .checkLen l' ∧ l'.len = len ∧
      t.env.brl = waitDraws ws ++ bs ∧ t.env.rx = rs := by
  have hattempt : Takes p .learn 0 s ({ s with attempts := BitVec.ofNat 8 l.att, fb := Vector.replicate 8 0 }.goto 0x5
      (.bus .learnRx .clear) l) := .line (atOp_run hs) rfl
  have hrx := hattempt.trans (Takes.strobe (q := .learnRx) rfl rfl hb hr ht)
  have hlen := hrx.trans (Takes.register (q := .learnLen) (x := readXfer p p.rxlenAddr) rfl rfl rfl rfl
    (waitsAllowed_cons.mp ht).2 rfl rfl)
  generalize hu : State.ranTxns _ (w2 + 1) .. = u at hlen
  have hq : u.seq = .run 0x5 .recordLen { l with v := len, len := len } := by rw [← hu]; rfl
  have hrecord : Takes p .learn 0 u ({ u with rxlen := len }.goto 0x5 .clearMatch { l with v := len, len := len }) :=
    .line (atOp_run hq) rfl
  have hclear := (hlen.trans hrecord).trans (takes_clearMatch (State.goto_seq ..))
  exact ⟨_, _, by simpa only [Nat.zero_add, Nat.add_zero] using hclear, rfl, rfl, by rw [← hu]; rfl, by rw [← hu]; rfl⟩

/-- Step 6 of an attempt: two strobes (rule R179). -/
theorem takes_idle_to_checkMatch {w3 w4 : Nat} {i3 i4 : Byte} (hs : s.seq = .run 0x5 (.bus .learnIdle .clear) l)
    (hb : s.env.brl = waitDraws [w3, w4] ++ bs) (hr : s.env.rx = i3 :: i4 :: rs) (ht : waitsAllowed p [w3, w4]) :
    ∃ t, Takes p .learn (2 * p.tStrobe) s t ∧ t.seq = .run 0x5 .checkMatch l := by
  have hidle := Takes.strobe (i := .learn) (q := .learnIdle) rfl hs hb hr ht
  have hflush := hidle.trans (Takes.strobe (q := .learnFlush) rfl rfl rfl rfl (waitsAllowed_cons.mp ht).2)
  generalize hu : State.ranTxns _ (w4 + 1) .. = u at hflush
  have hq : u.seq = .run 0x5 .attemptResult l := by rw [← hu]; rfl
  have hresult := hflush.trans (.line (atOp_run hq) rfl)
  rw [Nat.add_zero, ← Nat.two_mul] at hresult
  exact ⟨_, hresult, rfl⟩

/-- One frame byte: a register read (rule R176). -/
theorem takes_frame_byte {w : Nat} {ws : List Nat} {h v : Byte} (hs : s.seq = .run 0x5 (.bus .learnByte .clear) l)
    (hb : s.env.brl = waitDraws (w :: ws) ++ bs) (hr : s.env.rx = h :: v :: rs) (ht : waitsAllowed p (w :: ws)) :
    ∃ t, Takes p .learn (p.tByte + p.tPost) s t ∧ t.seq = nextByte { l with v := v } ∧
      t.env.brl = waitDraws ws ++ bs ∧ t.env.rx = rs := by
  have hread := Takes.register (i := .learn) (q := .learnByte) (x := readXfer p p.fifoAddr) rfl hs hb hr ht rfl rfl
  generalize hu : State.ranTxns .. = u at hread
  have hq : u.seq = .run 0x5 .storeByte { l with v := v } := by rw [← hu]; rfl
  have hstore : Takes p .learn 0 u { u with fb := u.fb.setIfInBounds l.j v, seq := nextByte { l with v := v } } := by
    refine .line ((atOp_run hq).trans (congrArg Host.Outcome.next ?_)) rfl
    rw [nextByte]
    split <;> rfl
  exact ⟨_, hread.trans hstore, rfl, by rw [← hu]; rfl, by rw [← hu]; rfl⟩

/-- All the frame bytes that are left, `v` and then `f`, up to the parse (rule R176). -/
theorem takes_frame_bytes {ws' : List Nat} (f : List Byte) :
    ∀ (v : Byte) (hs : List Byte) (ws : List Nat) (s : State) (l : Locals),
      s.seq = .run 0x5 (.bus .learnByte .clear) l → l.j + (v :: f).length = l.len.toNat →
      hs.length = (v :: f).length → ws.length = (v :: f).length → s.env.brl = waitDraws (ws ++ ws') ++ bs →
      s.env.rx = (hs.zip (v :: f)).flatMap (fun x => [x.1, x.2]) ++ rs → waitsAllowed p (ws ++ ws') →
      ∃ t l', Takes p .learn ((v :: f).length * (p.tByte + p.tPost)) s t ∧ t.seq = .run 0x5 .parse l' ∧
        t.env.brl = waitDraws ws' ++ bs ∧ t.env.rx = rs := by
  induction f with
  | nil =>
    intro v hs ws s l hseq hj hhs hws hb hr ht
    obtain ⟨h, rfl⟩ := List.length_eq_one_iff.mp hhs
    obtain ⟨w, rfl⟩ := List.length_eq_one_iff.mp hws
    obtain ⟨t, htime, hq, hbrl, hrx⟩ := takes_frame_byte hseq hb hr ht
    rw [nextByte, if_neg (Nat.not_lt_of_le (show l.len.toNat ≤ l.j + 1 from hj.ge))] at hq
    exact ⟨t, _, by rwa [List.length_singleton, Nat.one_mul], hq, hbrl, hrx⟩
  | cons v' f ih =>
    intro v hs ws s l hseq hj hhs hws hb hr ht
    obtain ⟨h, hs, rfl⟩ := List.exists_cons_of_length_eq_add_one hhs
    obtain ⟨w, ws, rfl⟩ := List.exists_cons_of_length_eq_add_one hws
    obtain ⟨t, htime, hq, hbrl, hrx⟩ := takes_frame_byte hseq hb hr ht
    have hj' : l.j + 1 + (v' :: f).length = l.len.toNat := by
      rw [← hj, List.length_cons (a := v)]
      omega
    have hnext : l.j + 1 < l.len.toNat := hj' ▸ Nat.lt_add_of_pos_right (Nat.succ_pos _)
    rw [nextByte, if_pos hnext] at hq
    obtain ⟨u, l', hrest, hend⟩ := ih v' hs ws t { l with v := v, j := l.j + 1 } hq hj' (Nat.succ.inj hhs)
      (Nat.succ.inj hws) hbrl hrx (waitsAllowed_cons.mp ht).2
    refine ⟨u, l', ?_, hend⟩
    rw [List.length_cons, Nat.succ_mul, Nat.add_comm]
    exact htime.trans hrest

/-- The parse, and `m <- FOUND` where it matches, lead to step 6 (rules R178, R180). -/
theorem takes_parse (hs : s.seq = .run 0x5 .parse l) :
    ∃ t l', Takes p .learn 0 s t ∧ t.seq = .run 0x5 (.bus .learnIdle .clear) l' ∧ t.env = s.env := by
  have hparse : commandStep p .learn s = .next (parseStep l s) := atOp_run hs
  unfold parseStep at hparse
  split at hparse
  · exact ⟨_, _, .line hparse rfl, rfl, rfl⟩
  · have hmatch := Takes.line hparse rfl
    exact ⟨_, _, hmatch.trans (takes_setMatch (State.goto_seq ..)), rfl, rfl⟩

end

/-- An attempt whose reported length is outside 2 to 8 (rules R174, R175, R305). -/
theorem takes_attempt_without_frame {p : Params} {s : State} {l : Locals} {ws : List Nat} {bs : List Level}
    {i1 i2 len i3 i4 : Byte} {rs : List Byte} (hs : s.seq = .run 0x5 .attempt l) (hws : ws.length = 4)
    (hlen : len.toNat ≤ 1 ∨ 8 < len.toNat) (hb : s.env.brl = waitDraws ws ++ bs)
    (hr : s.env.rx = i1 :: i2 :: len :: i3 :: i4 :: rs) (ht : waitsAllowed p ws) :
    ∃ t l', Takes p .learn (p.tRxWait + (p.tByte + p.tPost) + 2 * p.tStrobe) s t ∧ t.seq = .run 0x5 .checkMatch l' := by
  obtain ⟨w1, w2, w3, w4, ws', rfl, hws'⟩ := exists_four_waits (n := 0) hws
  obtain rfl : ws' = [] := List.length_eq_zero_iff.mp hws'
  obtain ⟨t, l', hhead, hq, rfl, hbrl, hrx⟩ := takes_attempt_to_checkLen hs hb hr ht
  have hout : ¬ (Const.minFrameExcl < l'.len.toNat ∧ l'.len.toNat ≤ Const.maxFrame) := by
    simp only [Const.minFrameExcl, Const.maxFrame]
    omega
  have hskip : Takes p .learn 0 t (t.goto 0x5 (.bus .learnIdle .clear) l') :=
    .line ((atOp_run hq).trans (congrArg Host.Outcome.next (if_neg hout))) rfl
  obtain ⟨u, htail, hend⟩ := takes_idle_to_checkMatch (s := t.goto 0x5 (.bus .learnIdle .clear) l') rfl hbrl hrx
    (waitsAllowed_cons.mp (waitsAllowed_cons.mp ht).2).2
  exact ⟨u, l', (hhead.trans hskip).trans htail, hend⟩

/-- An attempt that reads the frame `f` of 2 to 8 bytes (rules R176, R305). -/
theorem takes_attempt_with_frame {p : Params} {s : State} {l : Locals} {ws : List Nat} {bs : List Level}
    {i1 i2 i3 i4 : Byte} {f hs rs : List Byte} (hseq : s.seq = .run 0x5 .attempt l) (h2 : 2 ≤ f.length)
    (h8 : f.length ≤ 8) (hhs : hs.length = f.length) (hws : ws.length = 4 + f.length)
    (hb : s.env.brl = waitDraws ws ++ bs)
    (hr : s.env.rx = i1 :: i2 :: BitVec.ofNat 8 f.length ::
      ((hs.zip f).flatMap (fun x => [x.1, x.2]) ++ i3 :: i4 :: rs)) (ht : waitsAllowed p ws) :
    ∃ t l', Takes p .learn (p.tRxWait + (p.tByte + p.tPost) + 2 * p.tStrobe + f.length * (p.tByte + p.tPost)) s t ∧
      t.seq = .run 0x5 .checkMatch l' := by
  obtain ⟨w1, w2, wb, w3, w4, rfl, hwb⟩ := exists_frame_waits hws
  obtain ⟨t, l1, hhead, hq, hl1, hbrl, hrx⟩ := takes_attempt_to_checkLen hseq hb hr ht
  have hlen : l1.len.toNat = f.length := by
    rw [hl1, BitVec.toNat_ofNat]
    omega
  have hin : Const.minFrameExcl < l1.len.toNat ∧ l1.len.toNat ≤ Const.maxFrame := by
    simp only [Const.minFrameExcl, Const.maxFrame]
    omega
  have hcheck : Takes p .learn 0 t (t.goto 0x5 (.bus .learnByte .clear) { l1 with j := 0 }) :=
    .line ((atOp_run hq).trans (congrArg Host.Outcome.next (if_pos hin))) rfl
  have hwaits := (waitsAllowed_cons.mp (waitsAllowed_cons.mp ht).2).2
  obtain ⟨v, g, rfl⟩ := List.exists_cons_of_ne_nil (show f ≠ [] by rintro rfl; simp at h2)
  obtain ⟨u, l2, hbytes, hq2, hbrl2, hrx2⟩ := takes_frame_bytes g v hs wb
    (t.goto 0x5 (.bus .learnByte .clear) { l1 with j := 0 }) { l1 with j := 0 } rfl
    ((Nat.zero_add _).trans hlen.symm) hhs hwb hbrl hrx hwaits
  obtain ⟨u', l3, hparse, hq3, henv⟩ := takes_parse (p := p) hq2
  obtain ⟨u'', htail, hend⟩ := takes_idle_to_checkMatch hq3 ((congrArg Env.brl henv).trans hbrl2)
    ((congrArg Env.rx henv).trans hrx2) fun b hbound m hm => hwaits b hbound m (List.mem_append_right wb hm)
  refine ⟨u'', l3, ?_, hend⟩
  convert (((hhead.trans hcheck).trans hbytes).trans hparse).trans htail using 1
  omega

end Sys2Proof.Machine

open Sys2Proof Sys2Proof.Machine

/-- Settles O45: one `takes_` lemma for each kind of run; that a repetition takes 263 microseconds is rule R9's bound on
the two delays. -/
theorem minimumDurations : Obligations.MinimumDurations := by
  intro p s l ws bs is rs hp ht hb hr
  refine ⟨fun a hs hws his => ?_, fun a v hs hws his => ?_, fun c d hs hws his => ?_, fun c n hs hws his => ?_,
    fun i1 i2 len i3 i4 hs hws his hlen => ?_, fun i1 i2 i3 i4 f hs hseq h2 h8 hhs hws his => ?_⟩
  · obtain ⟨t, ⟨k, es, hrun, htrace, htime⟩, hdone, hidle⟩ := takes_rdreg ht hb hr hs hws his
    exact ⟨k, t, es, hrun, hdone, hidle, htrace, htime⟩
  · obtain ⟨t, ⟨k, es, hrun, htrace, htime⟩, hdone, hidle⟩ := takes_wrreg ht hb hr hs hws his
    exact ⟨k, t, es, hrun, hdone, hidle, htrace, htime⟩
  · obtain ⟨t, ⟨k, es, hrun, htrace, htime⟩, hdone, hidle⟩ := takes_strobe ht hb hr hs hws his
    exact ⟨k, t, es, hrun, hdone, hidle, htrace, htime⟩
  · obtain ⟨t, ⟨k, es, hrun, htrace, htime⟩, hreps, hq⟩ := takes_repetition (c := c) (n := n) hs hws his hb hr ht
    have hdelays : 1 ≤ p.tByte ∧ 255 ≤ p.tTx := by
      simp only [Params.legal, Bool.and_eq_true, decide_eq_true_eq] at hp
      omega
    exact ⟨k, t, es, hrun, hreps, hq, htrace, htime, by omega⟩
  · subst his
    obtain ⟨t, l', ⟨k, es, hrun, htrace, htime⟩, hq⟩ := takes_attempt_without_frame hs hws hlen hb hr ht
    exact ⟨k, t, l', es, hrun, hq, htrace, htime⟩
  · subst his
    have hr' : s.env.rx = i1 :: i2 :: BitVec.ofNat 8 f.length ::
        ((hs.zip f).flatMap (fun x => [x.1, x.2]) ++ i3 :: i4 :: rs) := by
      rw [hr]
      simp
    obtain ⟨t, l', ⟨k, es, hrun, htrace, htime⟩, hq⟩ :=
      takes_attempt_with_frame hseq h2 h8 hhs hws hb hr' ht
    exact ⟨k, t, l', es, hrun, hq, htrace, htime⟩

end

section
/-! Every operation ends (rules R172, R176, R214, R306): for each position of each command, how many deasserted samples
and how many other steps are left at most; every step leaves less. -/

namespace Sys2Proof.Machine

/-- What an operation still needs at most: deasserted readiness samples, and steps that are no readiness sample. -/
structure Left where
  waits : Nat
  steps : Nat

/-- After a step there is less left: no more samples, and fewer other steps. -/
def Left.Fewer (a b : Left) : Prop := a.waits ≤ b.waits ∧ a.steps < b.steps

/-- What is left inside a transaction with at most `n` payload bytes, where `a` is left after it (rule R136). -/
def Left.inTxn (a : Left) (n : Nat) : BusPos → Left
  | .clear => ⟨a.waits + 1, a.steps + (2 * n + 5)⟩
  | .sample => ⟨a.waits + 1, a.steps + (2 * n + 4)⟩
  | .select => ⟨a.waits, a.steps + (2 * n + 4)⟩
  | .header => ⟨a.waits, a.steps + (2 * n + 3)⟩
  | .gap k => ⟨a.waits, a.steps + (2 * (n - k) + 2)⟩
  | .payload k => ⟨a.waits, a.steps + (2 * (n - k) + 1)⟩
  | .deselect => ⟨a.waits, a.steps + 2⟩
  | .delay => ⟨a.waits, a.steps + 1⟩

/-- The payload of a transaction line at most: eight bytes in TX's burst write, one elsewhere (rules R140, R211). -/
def maxPayload : Txn → Nat
  | .txBurst => 8
  | _ => 1

/-- The repetitions of TX that may follow the running one: a count is at most 255 (rule R214). -/
def Locals.moreReps (l : Locals) : Nat := 254 - (l.rep - 1)

/-- The attempts of LEARN that may follow the running one: P_LEARN_MAX_ATTEMPTS is at most 255 (rules R9, R172). -/
def Locals.moreAttempts (l : Locals) : Nat := 254 - (l.att - 1)

/-- The frame bytes that may follow the one being read: a frame has at most 8 (rule R176). -/
def Locals.moreBytes (l : Locals) : Nat := 7 - l.j

/-- The entries of the table that may follow the one being written: it has at most 255 (rule R9). -/
def Locals.moreEntries (l : Locals) : Nat := 254 - l.ci

/-- What is left after transaction line `t`. A repetition of TX has 4 waits and 43 other steps at most, an attempt of
LEARN 12 and 100, an entry of INIT's table 1 and 8. -/
def leftAfterTxn (l : Locals) : Txn → Left
  | .cmd => ⟨0, 1⟩
  | .txIdle => ⟨4 * l.moreReps + 3, 43 * l.moreReps + 37⟩
  | .txFlush => ⟨4 * l.moreReps + 2, 43 * l.moreReps + 30⟩
  | .txBurst => ⟨4 * l.moreReps + 1, 43 * l.moreReps + 9⟩
  | .txFire => ⟨4 * l.moreReps, 43 * l.moreReps + 2⟩
  | .learnRx => ⟨12 * l.moreAttempts + 11, 100 * l.moreAttempts + 94⟩
  | .learnLen => ⟨12 * l.moreAttempts + 10, 100 * l.moreAttempts + 87⟩
  | .learnByte => ⟨12 * l.moreAttempts + 2 + l.moreBytes, 100 * l.moreAttempts + 21 + 8 * l.moreBytes⟩
  | .learnIdle => ⟨12 * l.moreAttempts + 1, 100 * l.moreAttempts + 11⟩
  | .learnFlush => ⟨12 * l.moreAttempts, 100 * l.moreAttempts + 4⟩
  | .initReset => ⟨255, 2041⟩
  | .initWrite => ⟨l.moreEntries, 8 * l.moreEntries + 1⟩

/-- What is left at the lines of RDREG, WRREG and STROBE that are no transaction. -/
def cmdLineLeft : Pos → Left
  | .start => ⟨1, 10⟩
  | .operands => ⟨1, 9⟩
  | _ => ⟨0, 1⟩

/-- What is left at the lines of TX that are no transaction. -/
def txLineLeft (l : Locals) : Pos → Left
  | .start => ⟨1020, 10969⟩
  | .precondition => ⟨1020, 10968⟩
  | .setup => ⟨1020, 10967⟩
  | .countRep => ⟨4 * l.moreReps, 43 * l.moreReps + 2⟩
  | _ => ⟨0, 1⟩

/-- What is left at the lines of LEARN that are no transaction. -/
def learnLineLeft (l : Locals) : Pos → Left
  | .start => ⟨3060, 25505⟩
  | .precondition => ⟨3060, 25504⟩
  | .setup => ⟨3060, 25503⟩
  | .attempt => ⟨12 * l.moreAttempts + 12, 100 * l.moreAttempts + 102⟩
  | .recordLen => ⟨12 * l.moreAttempts + 10, 100 * l.moreAttempts + 87⟩
  | .clearMatch => ⟨12 * l.moreAttempts + 10, 100 * l.moreAttempts + 86⟩
  | .checkLen => ⟨12 * l.moreAttempts + 10, 100 * l.moreAttempts + 85⟩
  | .storeByte => ⟨12 * l.moreAttempts + 2 + l.moreBytes, 100 * l.moreAttempts + 21 + 8 * l.moreBytes⟩
  | .parse => ⟨12 * l.moreAttempts + 2, 100 * l.moreAttempts + 20⟩
  | .setMatch => ⟨12 * l.moreAttempts + 2, 100 * l.moreAttempts + 19⟩
  | .attemptResult => ⟨12 * l.moreAttempts, 100 * l.moreAttempts + 4⟩
  | .checkMatch => ⟨12 * l.moreAttempts, 100 * l.moreAttempts + 3⟩
  | .exhausted => ⟨0, 2⟩
  | _ => ⟨0, 1⟩

/-- What is left at the lines of SETADDR. -/
def setaddrLineLeft : Pos → Left
  | .start => ⟨0, 5⟩
  | .operands => ⟨0, 4⟩
  | .precondition => ⟨0, 3⟩
  | .setup => ⟨0, 2⟩
  | _ => ⟨0, 1⟩

/-- What is left at the lines of INIT that are no transaction. -/
def initLineLeft (l : Locals) : Pos → Left
  | .start => ⟨256, 2049⟩
  | .tableEntry => ⟨l.moreEntries + 1, 8 * l.moreEntries + 9⟩
  | _ => ⟨0, 1⟩

/-- What is left at the lines of command `i` that are no transaction. -/
def lineLeft (l : Locals) (pos : Pos) : Instr → Left
  | .nop => ⟨0, 1⟩
  | .rdreg _ | .wrreg _ _ | .strobe _ _ => cmdLineLeft pos
  | .tx _ _ => txLineLeft l pos
  | .learn => learnLineLeft l pos
  | .setaddr _ _ => setaddrLineLeft pos
  | .init => initLineLeft l pos

/-- What is left of command `i` at position `pos` with locals `l`. -/
def leftAt (i : Instr) (l : Locals) : Pos → Left
  | .bus t b => (leftAfterTxn l t).inTxn (maxPayload t) b
  | pos => lineLeft l pos i

theorem Left.inTxn_le (a : Left) (n : Nat) (b : BusPos) :
    (a.inTxn n b).waits ≤ a.waits + 1 ∧ (a.inTxn n b).steps ≤ a.steps + (2 * n + 5) := by
  cases b <;> simp only [Left.inTxn] <;> omega

theorem leftAfterTxn_le (l : Locals) (t : Txn) :
    (leftAfterTxn l t).waits + 1 ≤ 3060 ∧ (leftAfterTxn l t).steps + (2 * maxPayload t + 5) ≤ 25505 := by
  cases t <;> simp only [leftAfterTxn, maxPayload, Locals.moreReps, Locals.moreAttempts, Locals.moreBytes,
    Locals.moreEntries] <;> omega

theorem lineLeft_le (i : Instr) (l : Locals) (pos : Pos) :
    (lineLeft l pos i).waits ≤ 3060 ∧ (lineLeft l pos i).steps ≤ 25505 := by
  cases i <;> simp only [lineLeft]
  case nop => omega
  case rdreg | wrreg | strobe => unfold cmdLineLeft; split <;> dsimp only <;> omega
  case tx => unfold txLineLeft Locals.moreReps; split <;> dsimp only <;> omega
  case learn => unfold learnLineLeft Locals.moreAttempts Locals.moreBytes; split <;> dsimp only <;> omega
  case setaddr => unfold setaddrLineLeft; split <;> dsimp only <;> omega
  case init => unfold initLineLeft Locals.moreEntries; split <;> dsimp only <;> omega

/-- Nowhere is more left than at LEARN's start. -/
theorem leftAt_le (i : Instr) (l : Locals) (pos : Pos) :
    (leftAt i l pos).waits ≤ 3060 ∧ (leftAt i l pos).steps ≤ 25505 := by
  cases pos
  case bus t b =>
    obtain ⟨hw, hs⟩ := (leftAfterTxn l t).inTxn_le (maxPayload t) b
    obtain ⟨hw', hs'⟩ := leftAfterTxn_le l t
    exact ⟨hw.trans hw', hs.trans hs'⟩
  all_goals exact lineLeft_le i l _

/-- A step of command `i` that led to `u` ended the operation, or left less than `a`. -/
def State.EndedOrFewer (i : Instr) (a : Left) (u : State) : Prop :=
  (u.seq = .idle ∧ u.done ≠ .none) ∨ ∃ pos l, u.seq = .run (opcode i) pos l ∧ (leftAt i l pos).Fewer a

theorem State.EndedOrFewer.goto {i : Instr} {a : Left} {u : State} {pos : Pos} {l : Locals}
    (hs : u.seq = .run (opcode i) pos l) (hw : (leftAt i l pos).waits ≤ a.waits)
    (hlt : (leftAt i l pos).steps < a.steps) : u.EndedOrFewer i a :=
  .inr ⟨pos, l, hs, hw, hlt⟩

/-- Most lines lead to a position where one step less is left. -/
theorem State.EndedOrFewer.next {i : Instr} {a : Left} {u : State} {pos : Pos} {l : Locals}
    (hs : u.seq = .run (opcode i) pos l) (ha : a = ⟨(leftAt i l pos).waits, (leftAt i l pos).steps + 1⟩) :
    u.EndedOrFewer i a :=
  .goto hs (by rw [ha]) (by rw [ha]; exact Nat.lt_succ_self _)

theorem State.EndedOrFewer.finish {i : Instr} {a : Left} {u : State} (hs : u.seq = .idle) (hd : u.done ≠ .none) :
    u.EndedOrFewer i a :=
  .inl ⟨hs, hd⟩

/-! The lines that are no transaction. -/

section
variable {s u : State} {pos : Pos} {l : Locals}

theorem tx_line_endedOrFewer {k : CommandCode} {n : Byte} (h : s.Runs (.tx k n) pos l)
    (hpos : ∀ t b, pos ≠ .bus t b) (hu : exec (.tx k n) s = .next u) :
    u.EndedOrFewer (.tx k n) (leftAt (.tx k n) l pos) := by
  have hu := (atOp_run h.seq).symm.trans hu
  cases pos
  case bus t b => exact absurd rfl (hpos t b)
  case start => cases hu; exact .next rfl rfl
  case precondition =>
    cases hu
    split
    · exact .next rfl rfl
    · exact .finish rfl nofun
  case setup =>
    cases hu
    split
    · exact .goto rfl (Nat.zero_le _) (show 1 < 10967 by decide)
    · exact .next rfl rfl
  case countRep =>
    obtain ⟨-, hone, hle, -⟩ : s.repeating n l := h.posOk nofun
    have hn := n.isLt
    cases hu
    split
    · refine .goto rfl ?_ ?_ <;>
        simp only [leftAt, Left.inTxn, leftAfterTxn, maxPayload, lineLeft, txLineLeft, Locals.moreReps] <;> omega
    · exact .goto rfl (Nat.zero_le _) (Nat.le_add_left ..)
  case finish => cases hu; exact .finish rfl nofun
  all_goals cases hu

theorem setaddr_line_endedOrFewer {a b : Byte} (h : s.Runs (.setaddr a b) pos l) (hpos : ∀ t b, pos ≠ .bus t b)
    (hu : exec (.setaddr a b) s = .next u) : u.EndedOrFewer (.setaddr a b) (leftAt (.setaddr a b) l pos) := by
  have hu := (atOp_run h.seq).symm.trans hu
  cases pos
  case bus t b => exact absurd rfl (hpos t b)
  case start | operands | setup => cases hu; exact .next rfl rfl
  case precondition =>
    cases hu
    split
    · exact .next rfl rfl
    · exact .finish rfl nofun
  case finish => cases hu; exact .finish rfl nofun
  all_goals cases hu

theorem learn_line_endedOrFewer (h : s.Runs .learn pos l) (hpos : ∀ t b, pos ≠ .bus t b)
    (hu : exec .learn s = .next u) : u.EndedOrFewer .learn (leftAt .learn l pos) := by
  have hu := (atOp_run h.seq).symm.trans hu
  cases pos
  case bus t b => exact absurd rfl (hpos t b)
  case start | setup | attempt | recordLen | clearMatch | setMatch | attemptResult | exhausted =>
    cases hu
    exact .next rfl rfl
  case precondition =>
    cases hu
    split
    · exact .finish rfl nofun
    · exact .next rfl rfl
  case checkLen =>
    cases hu
    split
    · exact .next rfl rfl
    · refine .goto rfl ?_ ?_ <;>
        simp only [leftAt, Left.inTxn, leftAfterTxn, maxPayload, lineLeft, learnLineLeft] <;> omega
  case storeByte =>
    obtain ⟨-, -, ⟨-, hlen, -⟩, -⟩ := h.posOk nofun
    simp only [Const.maxFrame] at hlen
    cases hu
    split
    · refine .goto rfl ?_ ?_ <;>
        simp only [leftAt, Left.inTxn, leftAfterTxn, maxPayload, lineLeft, learnLineLeft, Locals.moreBytes,
          Locals.moreAttempts] <;> omega
    · refine .goto rfl ?_ ?_ <;> simp only [leftAt, lineLeft, learnLineLeft] <;> omega
  case parse =>
    cases hu
    unfold parseStep
    split
    · refine .goto rfl ?_ ?_ <;>
        simp only [leftAt, Left.inTxn, leftAfterTxn, maxPayload, lineLeft, learnLineLeft] <;> omega
    · exact .next rfl rfl
  case checkMatch =>
    obtain ⟨-, -, hone, -⟩ : s.parsed l := h.posOk nofun
    have hmax := learnMaxAttempts_le_255
    cases hu
    split
    · exact .finish rfl nofun
    · split
      · refine .goto rfl ?_ ?_ <;> simp only [leftAt, lineLeft, learnLineLeft, Locals.moreAttempts] <;> omega
      · exact .goto rfl (Nat.zero_le _) (Nat.le_add_left ..)
  case finish => cases hu; exact .finish rfl nofun
  all_goals cases hu

/-- Every line of every command that is no transaction leaves less. -/
theorem exec_line_endedOrFewer {i : Instr} (h : s.Runs i pos l) (hpos : ∀ t b, pos ≠ .bus t b)
    (hu : exec i s = .next u) : u.EndedOrFewer i (leftAt i l pos) := by
  cases i
  case tx k n => exact tx_line_endedOrFewer h hpos hu
  case learn => exact learn_line_endedOrFewer h hpos hu
  case setaddr a b => exact setaddr_line_endedOrFewer h hpos hu
  all_goals
    have hu := (atOp_run h.seq).symm.trans hu
    cases pos
  case nop.start => cases hu; exact .finish rfl nofun
  case rdreg.start | rdreg.operands | init.start | init.tableEntry => cases hu; exact .next rfl rfl
  case wrreg.start | strobe.start => cases hu; exact .goto rfl le_rfl (show 8 < 10 by decide)
  case rdreg.finish | wrreg.finish | strobe.finish | init.finish => cases hu; exact .finish rfl nofun
  case rdreg.bus t b | wrreg.bus t b | strobe.bus t b | init.bus t b => exact absurd rfl (hpos t b)
  all_goals cases hu

end

/-! The transaction lines. -/

/-- A transaction line leads to a position of its command where no more is left than the line says. -/
theorem afterTxn_left {i : Instr} {adr : FixtureAddress} {l : Locals} {t : Txn} {x : Xfer}
    (hx : xferOf sbfcParams adr l i t = some x) :
    ∃ pos l', afterTxn sbfcParams i l t = .run (opcode i) pos l' ∧ (leftAt i l' pos).waits ≤ (leftAfterTxn l t).waits ∧
      (leftAt i l' pos).steps ≤ (leftAfterTxn l t).steps := by
  cases i <;> cases t
  case init.initReset =>
    simp only [afterTxn]
    split
    · exact ⟨_, _, rfl, Nat.zero_le _, show 1 ≤ 2041 by decide⟩
    · exact ⟨_, _, rfl, le_rfl, le_rfl⟩
  case init.initWrite =>
    have hlen : sbfcParams.configTable.length ≤ 255 := by
      have h := sbfcParams_legal
      simp only [Params.legal, Bool.and_eq_true, decide_eq_true_eq] at h
      omega
    simp only [afterTxn]
    split
    · refine ⟨_, _, rfl, ?_, ?_⟩ <;>
        simp only [leftAt, lineLeft, initLineLeft, leftAfterTxn, Locals.moreEntries] <;> omega
    · exact ⟨_, _, rfl, Nat.zero_le _, Nat.le_add_left ..⟩
  case rdreg.cmd | wrreg.cmd | strobe.cmd | tx.txIdle | tx.txFlush | tx.txBurst | tx.txFire | learn.learnRx |
      learn.learnLen | learn.learnByte | learn.learnIdle | learn.learnFlush =>
    exact ⟨_, _, rfl, le_rfl, le_rfl⟩
  all_goals exact nomatch (show (none : Option Xfer) = some x from hx)

/-- The payload of a transaction line is within its bound. -/
theorem payload_length_le {i : Instr} {adr : FixtureAddress} {l : Locals} {t : Txn} {x : Xfer}
    (hx : xferOf sbfcParams adr l i t = some x) : x.payload.length ≤ maxPayload t := by
  cases i <;> cases t
  case init.initWrite =>
    obtain ⟨e, -, rfl⟩ := Option.map_eq_some_iff.mp hx
    exact le_rfl
  all_goals first
    | exact nomatch (show (none : Option Xfer) = some x from hx)
    | (cases hx; exact Nat.le_of_ble_eq_true rfl)

theorem State.popRx_brl (s : State) : s.popRx.env.brl = s.env.brl := by
  unfold State.popRx
  split <;> rfl

/-- What is left after a line does not depend on the last value read. -/
theorem leftAfterTxn_v (l : Locals) (v : Byte) (t : Txn) : leftAfterTxn { l with v := v } t = leftAfterTxn l t := by
  cases t <;> rfl

section
variable {i : Instr} {s u : State} {t : Txn} {b : BusPos} {l : Locals}

/-- Every step of a transaction but a readiness sample takes no sample and leaves less (rules R131 to R136). -/
theorem exec_bus_endedOrFewer (h : s.Runs i (.bus t b) l) (hb : b ≠ .sample) (hu : exec i s = .next u) :
    u.env.brl = s.env.brl ∧ u.EndedOrFewer i (leftAt i l (.bus t b)) := by
  obtain ⟨x, hx, hbus⟩ := exec_bus hu h.seq
  have hlen := payload_length_le hx
  rcases busStep_next hbus with
    ⟨rfl, rfl⟩ | ⟨rfl, -⟩ | ⟨rfl, rfl⟩ | ⟨rfl, rfl⟩ | ⟨k, rfl, rfl⟩ | ⟨k, o, rfl, ho, rfl⟩ | ⟨rfl, rfl⟩ | ⟨rfl, rfl⟩
  case inl => exact ⟨rfl, .next rfl rfl⟩
  case inr.inl => exact absurd rfl hb
  case inr.inr.inl => exact ⟨rfl, .next rfl rfl⟩
  case inr.inr.inr.inl =>
    refine ⟨s.popRx_brl, ?_⟩
    split
    · refine .goto rfl le_rfl ?_
      simp only [leftAt, Left.inTxn]
      omega
    · exact .next rfl rfl
  case inr.inr.inr.inr.inl => exact ⟨rfl, .next rfl rfl⟩
  case inr.inr.inr.inr.inr.inl =>
    have hk : k < x.payload.length := (List.getElem?_eq_some_iff.mp ho).1
    have hafter : leftAfterTxn (if x.reads then { l with v := s.nextRx } else l) t = leftAfterTxn l t := by
      split
      · exact leftAfterTxn_v ..
      · rfl
    refine ⟨s.popRx_brl, ?_⟩
    split
    · refine .goto rfl ?_ ?_ <;> simp only [leftAt, Left.inTxn, hafter] <;> omega
    · refine .goto rfl ?_ ?_ <;> simp only [leftAt, Left.inTxn, hafter] <;> omega
  case inr.inr.inr.inr.inr.inr.inl => exact ⟨rfl, .next rfl rfl⟩
  case inr.inr.inr.inr.inr.inr.inr =>
    obtain ⟨pos, l', hq, hw, hs⟩ := afterTxn_left hx
    exact ⟨rfl, .goto hq hw (Nat.lt_succ_of_le hs)⟩

/-- A listed readiness sample is taken; it ends the operation, or is an asserted one that leaves SEQ where it is, or the
deasserted one that ends the wait (rule R131). -/
theorem exec_sample_cases {v : Level} {bs : List Level} (h : s.Runs i (.bus t .sample) l) (hbrl : s.env.brl = v :: bs)
    (hu : exec i s = .next u) :
    u.env.brl = bs ∧ ((u.seq = .idle ∧ u.done ≠ .none) ∨ (v = .asserted ∧ u.seq = s.seq) ∨
      (v = .deasserted ∧ u.seq = .run (opcode i) (.bus t .select) l)) := by
  obtain ⟨x, hx, hbus⟩ := exec_bus hu h.seq
  obtain rfl : s.sampleBrl sbfcParams (opcode i) t l (stopOf i) = u := Host.Outcome.next.inj hbus
  obtain ⟨rfl, hpop⟩ := State.brl_cons hbrl
  have hbs : s.popBrl.env.brl = bs := by rw [hpop]
  rcases s.sampleBrl_cases sbfcParams (opcode i) t l (stopOf i) with ⟨hv, he⟩ | ⟨-, -, he⟩ | ⟨hv, -, he⟩ <;> rw [he]
  · exact ⟨hbs, .inr (.inr ⟨hv, rfl⟩)⟩
  · rw [stopOf_eq]
    exact ⟨hbs, .inl ⟨rfl, nofun⟩⟩
  · exact ⟨hbs, .inr (.inl ⟨hv, rfl⟩)⟩

end

/-! A budget of samples and steps that every step keeps within, and the run of a whole operation by induction on it. -/

/-- The deasserted samples among the draws `bs`. -/
def deassertedIn (bs : List Level) : Nat := (bs.filter fun b => decide (b = .deasserted)).length

/-- The listed draws of `s` hold the samples that are left, and the steps left beside them are, with one for each listed
draw, fewer than `n`. -/
structure State.Budget (s : State) (a : Left) (n : Nat) : Prop where
  waits : a.waits ≤ deassertedIn s.env.brl
  steps : a.steps + s.env.brl.length < n

/-- A step of command `i` that led to `u` ended the operation, or left it within the budget `n`. -/
def State.EndedOrWithin (i : Instr) (n : Nat) (u : State) : Prop :=
  (u.seq = .idle ∧ u.done ≠ .none) ∨ ∃ pos l, u.seq = .run (opcode i) pos l ∧ u.Budget (leftAt i l pos) n

/-- The operation is over (rule R14). -/
def State.Ended (s : State) : Prop := s.busy = false ∧ s.seq = .idle ∧ s.done ≠ .none

section
variable {i : Instr} {s u : State} {pos : Pos} {l : Locals} {n : Nat}

theorem State.EndedOrFewer.endedOrWithin {a : Left} (h : u.EndedOrFewer i a) (hbrl : u.env.brl = s.env.brl)
    (hn : s.Budget a (n + 1)) : u.EndedOrWithin i n := by
  obtain ⟨hwaits, hsteps⟩ := hn
  obtain hend | ⟨pos, l, hq, hw, hs⟩ := h
  · exact .inl hend
  · refine .inr ⟨pos, l, hq, hbrl ▸ hw.trans hwaits, ?_⟩
    rw [hbrl]
    omega

/-- A readiness sample: the budget has one listed, an asserted one uses up a listed draw, and a deasserted one the wait
too (rule R131). -/
theorem exec_sample_endedOrWithin {t : Txn} (h : s.Runs i (.bus t .sample) l)
    (hn : s.Budget (leftAt i l (.bus t .sample)) (n + 1)) (hu : exec i s = .next u) : u.EndedOrWithin i n := by
  obtain ⟨hwaits, hsteps⟩ := hn
  simp only [leftAt, Left.inTxn] at hwaits hsteps
  cases hbrl : s.env.brl with
  | nil => simp [hbrl, deassertedIn] at hwaits
  | cons v bs =>
    obtain ⟨hbs, hcases⟩ := exec_sample_cases h hbrl hu
    rw [hbrl] at hwaits hsteps
    rw [List.length_cons] at hsteps
    obtain hend | ⟨rfl, hq⟩ | ⟨rfl, hq⟩ := hcases
    · exact .inl hend
    · refine .inr ⟨_, _, hq.trans h.seq, ?_, ?_⟩ <;> rw [hbs]
      · exact hwaits
      · simp only [leftAt, Left.inTxn]
        omega
    · refine .inr ⟨_, _, hq, ?_, ?_⟩ <;> rw [hbs]
      · exact Nat.le_of_succ_le_succ hwaits
      · simp only [leftAt, Left.inTxn]
        omega

/-- A step stays within a budget smaller by one. -/
theorem exec_endedOrWithin (h : s.Runs i pos l) (hn : s.Budget (leftAt i l pos) (n + 1)) (hu : exec i s = .next u) :
    u.EndedOrWithin i n := by
  by_cases hbus : ∃ t b, pos = .bus t b
  · obtain ⟨t, b, rfl⟩ := hbus
    by_cases hb : b = .sample
    · subst hb
      exact exec_sample_endedOrWithin h hn hu
    · obtain ⟨hbrl, hfewer⟩ := exec_bus_endedOrFewer h hb hu
      exact hfewer.endedOrWithin hbrl hn
  · have hpos : ∀ t b, pos ≠ .bus t b := fun t b he => hbus ⟨t, b, he⟩
    obtain ⟨-, henv, -⟩ := exec_line hu h.seq hpos
    exact (exec_line_endedOrFewer h hpos hu).endedOrWithin (congrArg Env.brl henv) hn

/-- A run of the machine, one step at its front. -/
theorem core_run_succ (n : Nat) (h : step s = .next u) :
    Host.Core.run Sys2Proof.core (n + 1) s = Host.Core.run Sys2Proof.core n u := by
  have hstep : Sys2Proof.core.step s = .next u := h
  simp only [Host.Core.run, hstep]

/-- SEQ alone brings a running command to its end within the budget. -/
theorem State.Runs.ends (n : Nat) : ∀ {s : State} {pos : Pos} {l : Locals}, s.Runs i pos l → s.env.turns = [] →
    s.Budget (leftAt i l pos) n → ∃ k t, k ≤ n ∧ Host.Core.run Sys2Proof.core k s = .next t ∧ t.Ended := by
  induction n with
  | zero => exact fun _ _ hn => absurd hn.steps (Nat.not_lt_zero _)
  | succ n ih =>
    intro s pos l h hts hn
    obtain ⟨u, hu, hinv⟩ := h.exec
    have hstep : step s = .next u := by rw [step_of_no_turns hts, seqTurn_run h.rst h.seq h.decodes, hu]
    obtain ⟨hq, hdone⟩ | ⟨pos', l', hq, hn'⟩ := exec_endedOrWithin h hn hu
    · have hbusy : u.busy = false := by
        by_contra hb
        exact hinv.1.mp (by simpa using hb) hq
      exact ⟨1, u, Nat.le_add_left .., core_run_succ 0 hstep, hbusy, hq, hdone⟩
    · have hruns : u.Runs i pos' l' := hinv.runs hq (by rw [exec_keeps_opl hu, h.decodes])
      obtain ⟨k, t, hk, hrun, hend⟩ := ih hruns ((exec_written hu).2.turns.trans hts) hn'
      exact ⟨k + 1, t, Nat.succ_le_succ hk, (core_run_succ k hstep).trans hrun, hend⟩

end

end Sys2Proof.Machine

open Sys2Proof Sys2Proof.Machine

/-- Settles O50: a word that decodes has the budget of LEARN's start at most (`leftAt_le`), and an illegal one ends in
one step. -/
theorem everyOperationEnds : Obligations.EveryOperationEnds := by
  intro s h hrun hr hts hdraws
  cases hs : s.seq with
  | idle => exact absurd hs hrun
  | run op pos l =>
    cases hd : decode s.opl with
    | ok i =>
      obtain ⟨hwaits, hsteps⟩ := leftAt_le i l pos
      obtain ⟨k, t, hk, hruns, hend⟩ := (h.runs hs hd).ends (30000 + s.env.brl.length) hts
        ⟨hwaits.trans hdraws, by omega⟩
      exact ⟨k, t, hk, hruns, hend⟩
    | error e =>
      obtain ⟨rfl, -⟩ := h.illegal hs hd
      have hstep : step s = .next (s.finish .illegal) := (step_of_no_turns hts).trans (seqTurn_illegal hr hs hd)
      exact ⟨1, _, by omega, core_run_succ 0 hstep, rfl, rfl, nofun⟩

end
